-- ==== Sys2Proof/Word.lean ====
section
/-! DEFINITION. The word types of the WPS/RPC block (spec 00_scope.md R7, R13). -/

namespace Sys2Proof

/-- One radio register, radio address, strobe code or command code: 8 bits (R7, R63, R91). -/
abbrev Byte := BitVec 8

/-- One sequencer instruction word: 16 bits (R7 `WORD_BITS`, R94). -/
abbrev Word16 := BitVec 16

/-- One host register at the interface, or one stream word: 32 bits (R20, R183). -/
abbrev Word32 := BitVec 32

end Sys2Proof
end

