-- ==== Sys2Proof/Syntax.lean ====
section
/-! DEFINITION. The instructions: one constructor per row of spec/opcode_table.json (R90, R92, R101, R113). -/

namespace Sys2Proof

/-- The 11 commands of format `CMD8` (R92), which have no operand in their code (R91), and the 10 words of
format `SEQ16` (R101). `dss` is the delay and side-set field [12:8] as it stands in the word: the word does not
say which of R95 and R96 reads it, so the sequencer's mode does when the word executes (R106, log 12). -/
inductive Instr where
  /-- `PLAN`, code 0x01 (R120). -/
  | plan
  /-- `SYNTH`, code 0x02 (R140). -/
  | synth
  /-- `RCFG`, code 0x03 (R210). -/
  | rcfg
  /-- `ENC_FREQ`, code 0x10 (R229). -/
  | encFreq
  /-- `ENC_DRATE`, code 0x11 (R233). -/
  | encDrate
  /-- `ENC_DEV`, code 0x12 (R237). -/
  | encDev
  /-- `ENC_BW`, code 0x13 (R241). -/
  | encBw
  /-- `DEC_FREQ`, code 0x18 (R261). -/
  | decFreq
  /-- `DEC_DRATE`, code 0x19 (R262). -/
  | decDrate
  /-- `DEC_DEV`, code 0x1A (R263). -/
  | decDev
  /-- `DEC_BW`, code 0x1B (R264). -/
  | decBw
  /-- `out null, 32` (R186). -/
  | outNull (dss : BitVec 5)
  /-- `out y, 32` (R187). -/
  | outY (dss : BitVec 5)
  /-- `out x, 1` (R188). -/
  | outX (dss : BitVec 5)
  /-- `jmp !x, t` (R189). -/
  | jmpNotX (dss t : BitVec 5)
  /-- `set y, n` (R190). -/
  | setY (dss n : BitVec 5)
  /-- `set pins, 1` (R191). -/
  | setPins1 (dss : BitVec 5)
  /-- `set pins, 0` (R192). -/
  | setPins0 (dss : BitVec 5)
  /-- `nop`, that is `mov y, y` (R193, R109). -/
  | nop (dss : BitVec 5)
  /-- `jmp y--, t` (R194). -/
  | jmpYDec (dss t : BitVec 5)
  /-- `jmp t` (R195). -/
  | jmp (dss t : BitVec 5)
deriving DecidableEq, Repr

end Sys2Proof
end

