-- ==== Sys2Proof/Decode.lean ====
section
/-! DEFINITION. Decoding and encoding of both formats (30_encoding.md R90 to R107).
No space is byte-addressed, so a code is one 8-bit value and a word one 16-bit value, with no byte order (R71). -/

namespace Sys2Proof

/-- Why a code or a word is no instruction. -/
inductive DecodeError where
  /-- A reserved command code (R93). -/
  | reservedCode (code : Byte)
  /-- A 16-bit word that matches no `SEQ16` row of the opcode table (R107). -/
  | noSuchWord (w : Word16)
deriving DecidableEq, Repr

/-- The command of a code (R92); every code not listed is reserved (R93). -/
def decodeCmd (c : Byte) : Except DecodeError Instr :=
  if c = 0x01 then .ok .plan
  else if c = 0x02 then .ok .synth
  else if c = 0x03 then .ok .rcfg
  else if c = 0x10 then .ok .encFreq
  else if c = 0x11 then .ok .encDrate
  else if c = 0x12 then .ok .encDev
  else if c = 0x13 then .ok .encBw
  else if c = 0x18 then .ok .decFreq
  else if c = 0x19 then .ok .decDrate
  else if c = 0x1A then .ok .decDev
  else if c = 0x1B then .ok .decBw
  else .error (.reservedCode c)

/-- The family field `op` = [15:13] (R94). -/
def fieldOp (w : Word16) : BitVec 3 := w.extractLsb' 13 3

/-- The delay and side-set field `dss` = [12:8] (R94). -/
def fieldDss (w : Word16) : BitVec 5 := w.extractLsb' 8 5

/-- `arg[7:5]`: the condition of a `JMP`, the destination of an `OUT`, `MOV` or `SET` (R97 to R100). -/
def fieldSel (w : Word16) : BitVec 3 := w.extractLsb' 5 3

/-- `arg[4:0]`: target, count, operation and source, or immediate (R97 to R100). -/
def fieldLow (w : Word16) : BitVec 5 := w.extractLsb' 0 5

/-- A `JMP` word (R97): the three conditions the block emits. -/
def decodeJmp (w : Word16) : Except DecodeError Instr :=
  if fieldSel w = 0b000 then .ok (.jmp (fieldDss w) (fieldLow w))
  else if fieldSel w = 0b001 then .ok (.jmpNotX (fieldDss w) (fieldLow w))
  else if fieldSel w = 0b100 then .ok (.jmpYDec (fieldDss w) (fieldLow w))
  else .error (.noSuchWord w)

/-- An `OUT` word (R98): `null, 32`, `y, 32` and `x, 1`, a count field of 0 meaning 32. -/
def decodeOut (w : Word16) : Except DecodeError Instr :=
  if fieldSel w = 0b011 ∧ fieldLow w = 0b00000 then .ok (.outNull (fieldDss w))
  else if fieldSel w = 0b010 ∧ fieldLow w = 0b00000 then .ok (.outY (fieldDss w))
  else if fieldSel w = 0b001 ∧ fieldLow w = 0b00001 then .ok (.outX (fieldDss w))
  else .error (.noSuchWord w)

/-- A `MOV` word (R99): only `mov y, y`, destination 010, operation 00, source 010. -/
def decodeMov (w : Word16) : Except DecodeError Instr :=
  if fieldSel w = 0b010 ∧ fieldLow w = 0b00010 then .ok (.nop (fieldDss w))
  else .error (.noSuchWord w)

/-- A `SET` word (R100): `pins, 0`, `pins, 1` and `y, n`. -/
def decodeSet (w : Word16) : Except DecodeError Instr :=
  if fieldSel w = 0b010 then .ok (.setY (fieldDss w) (fieldLow w))
  else if fieldSel w = 0b000 ∧ fieldLow w = 0b00001 then .ok (.setPins1 (fieldDss w))
  else if fieldSel w = 0b000 ∧ fieldLow w = 0b00000 then .ok (.setPins0 (fieldDss w))
  else .error (.noSuchWord w)

/-- The instruction of a 16-bit word (R94, R101); a word of no table row is rejected (R107). -/
def decodeSeq (w : Word16) : Except DecodeError Instr :=
  if fieldOp w = 0b000 then decodeJmp w
  else if fieldOp w = 0b011 then decodeOut w
  else if fieldOp w = 0b101 then decodeMov w
  else if fieldOp w = 0b111 then decodeSet w
  else .error (.noSuchWord w)

/-- An encoded instruction in one of the two formats (R90). -/
inductive Code where
  /-- Format `CMD8` (R91). -/
  | cmd8 (c : Byte)
  /-- Format `SEQ16` (R94). -/
  | seq16 (w : Word16)
deriving DecidableEq, Repr

/-- Decoding of either format. -/
def decode : Code → Except DecodeError Instr
  | .cmd8 c => decodeCmd c
  | .seq16 w => decodeSeq w

/-- A 16-bit word from its fields `op`, `dss`, `arg[7:5]`, `arg[4:0]` (R94, R97 to R100). -/
def packWord (op : BitVec 3) (dss : BitVec 5) (sel : BitVec 3) (low : BitVec 5) : Word16 :=
  op ++ dss ++ sel ++ low

/-- The code or word of an instruction (R92, R101). -/
def encode : Instr → Code
  | .plan => .cmd8 0x01
  | .synth => .cmd8 0x02
  | .rcfg => .cmd8 0x03
  | .encFreq => .cmd8 0x10
  | .encDrate => .cmd8 0x11
  | .encDev => .cmd8 0x12
  | .encBw => .cmd8 0x13
  | .decFreq => .cmd8 0x18
  | .decDrate => .cmd8 0x19
  | .decDev => .cmd8 0x1A
  | .decBw => .cmd8 0x1B
  | .outNull dss => .seq16 (packWord 0b011 dss 0b011 0b00000)
  | .outY dss => .seq16 (packWord 0b011 dss 0b010 0b00000)
  | .outX dss => .seq16 (packWord 0b011 dss 0b001 0b00001)
  | .jmpNotX dss t => .seq16 (packWord 0b000 dss 0b001 t)
  | .setY dss n => .seq16 (packWord 0b111 dss 0b010 n)
  | .setPins1 dss => .seq16 (packWord 0b111 dss 0b000 0b00001)
  | .setPins0 dss => .seq16 (packWord 0b111 dss 0b000 0b00000)
  | .nop dss => .seq16 (packWord 0b101 dss 0b010 0b00010)
  | .jmpYDec dss t => .seq16 (packWord 0b000 dss 0b100 t)
  | .jmp dss t => .seq16 (packWord 0b000 dss 0b000 t)

/-- The `(match, mask)` pairs of the ten `SEQ16` rows of the opcode table, in its order (R101, R113). -/
def seqRows : List (Word16 × Word16) :=
  [(0x6060, 0xE0FF), (0x6040, 0xE0FF), (0x6021, 0xE0FF), (0x0020, 0xE0E0), (0xE040, 0xE0E0),
   (0xE001, 0xE0FF), (0xE000, 0xE0FF), (0xA042, 0xE0FF), (0x0080, 0xE0E0), (0x0000, 0xE0E0)]

/-- The instruction the decoder reads from a row's bits: an 8-bit row is a command code, a 16-bit row a word (R113). -/
def decodeTableWord (nbits w : Nat) : Option Instr :=
  if nbits = 8 then (decodeCmd (BitVec.ofNat 8 w)).toOption
  else if nbits = 16 then (decodeSeq (BitVec.ofNat 16 w)).toOption
  else none

end Sys2Proof
end

