-- ==== Sys2Proof/Config.lean ====
section
/-! DEFINITION. The constants of R7, R9, R10 and the model arguments of R8, R11, R183. -/

namespace Sys2Proof

/-- `IMEM_WORDS` of R7: the capacity of the instruction store, in words. -/
def imemWords : Nat := 32

/-- `CAP_DUAL` of R7. -/
def capDual : Nat := 8

/-- `CAP_SINGLE` of R7. -/
def capSingle : Nat := 32

/-- `FIXED_OVERHEAD` of R9. -/
def fixedOverhead : Nat := 4

/-- `LOOP_CAP` of R10. -/
def loopCap : Nat := 32

/-- `SHIFT_DIR` of R183: `right` sends the least significant bit of a stream word first, `left` the most significant. -/
inductive ShiftDir where
  | right
  | left
deriving DecidableEq, Repr

/-- The model arguments: what the platform fixes and the spec leaves open (R8, R11, R183).
They are a field of State so that a statement about every state is about every platform; no step changes them (log 1). -/
structure Config where
  /-- `CLOCK_HZ`, R8; R43 asks `1 ≤ CLOCK_HZ < 2^31`. -/
  clockHz : Nat
  /-- `F_REF`, R11. -/
  fRef : Nat
  /-- `A_CHANNR`, R11. -/
  aChannr : Byte
  /-- `A_FREQ2`, R11. -/
  aFreq2 : Byte
  /-- `A_FREQ1`, R11. -/
  aFreq1 : Byte
  /-- `A_FREQ0`, R11. -/
  aFreq0 : Byte
  /-- `A_MDMCFG4`, R11. -/
  aMdmcfg4 : Byte
  /-- `A_MDMCFG3`, R11. -/
  aMdmcfg3 : Byte
  /-- `A_MDMCFG1`, R11. -/
  aMdmcfg1 : Byte
  /-- `A_MDMCFG0`, R11. -/
  aMdmcfg0 : Byte
  /-- `A_DEVIATN`, R11. -/
  aDeviatn : Byte
  /-- `S_IDLE`, R11. -/
  sIdle : Byte
  /-- `DEV_CEIL_A`, R11, R243. -/
  devCeilA : Nat
  /-- `DEV_CEIL_B`, R11, R243. -/
  devCeilB : Nat
  /-- `SHIFT_DIR`, R183. -/
  shiftDir : ShiftDir
deriving DecidableEq, Repr

/-- The suggested and default values of R8 and R11. `SHIFT_DIR` has none in the spec:
`right` is PRESUMED, the RP2040 PIO's own reset value (log 1). Unsafe: no statement rests on these values. -/
def Config.default : Config where
  clockHz := 125000000
  fRef := 26000000
  aChannr := 0x0A
  aFreq2 := 0x0D
  aFreq1 := 0x0E
  aFreq0 := 0x0F
  aMdmcfg4 := 0x10
  aMdmcfg3 := 0x11
  aMdmcfg1 := 0x13
  aMdmcfg0 := 0x14
  aDeviatn := 0x15
  sIdle := 0x36
  devCeilA := 380859
  devCeilB := 1000000
  shiftDir := .right

/-- What `OSRCNT` holds after an `OUT` has taken more bits than were left in `OSR`: the spec states no result there
(R183 adds `n`, R181 ends at 32). A free value: nothing constrains it. It is applied to the count of free values taken
before it (log 8). -/
opaque Config.freeOsrcnt : Nat → Fin 33

/-- The configurations this spec speaks of: R43's bound on `CLOCK_HZ`, and an oscillator that oscillates (R11). -/
abbrev Config.Valid (c : Config) : Prop := 1 ≤ c.clockHz ∧ c.clockHz < 2 ^ 31 ∧ 1 ≤ c.fRef

/-- The nine radio registers of R64 have nine different addresses, as their defaults in R11 do. -/
abbrev Config.AddressesDistinct (c : Config) : Prop :=
  [c.aChannr, c.aFreq2, c.aFreq1, c.aFreq0, c.aMdmcfg4, c.aMdmcfg3, c.aMdmcfg1, c.aMdmcfg0, c.aDeviatn].Nodup

end Sys2Proof
end

