-- ==== Sys2Proof/Machine/Arith.lean ====
section
/-! DEFINITION. The arithmetic of R14 and R16 on mathematical integers and exact rationals. -/

namespace Sys2Proof.Machine

/-- `IC(v, cap)` of R16, EBP's `instructionCount`. -/
def ic (v cap : Nat) : Nat := if v % cap = 0 then v / cap else v / cap + 1

/-- `round(a / b)` of R14: round half up. -/
def roundDiv (a b : Nat) : Nat := (2 * a + b) / (2 * b)

/-- An exact non-negative rational (R14), as an achieved value is (R227). -/
structure Frac where
  num : Nat
  den : Nat
deriving DecidableEq, Repr

/-- `floor(q)` of R14. -/
def Frac.floor (q : Frac) : Nat := q.num / q.den

/-- `q = n` as rationals (R227). -/
def Frac.eqNat (q : Frac) (n : Nat) : Bool := q.num == n * q.den

/-- `min(v, 2^32 − 1)`, narrowed to a 32-bit register (R227, R260). -/
def sat32 (v : Nat) : BitVec 32 := BitVec.ofNat 32 (min v (2 ^ 32 - 1))

/-- "the largest e in 0..n with p e; 0 if there is none" (R233, R237). -/
def largestExp (p : Nat → Bool) : Nat → Nat
  | 0 => 0
  | n + 1 => if p (n + 1) then n + 1 else largestExp p n

end Sys2Proof.Machine
end

