-- ==== Sys2Proof/Machine/Flags.lean ====
section
/-! DEFINITION. The warning flags of `WARN` (R34) and their exact conditions (R286), and the error codes (R281). -/

namespace Sys2Proof.Machine

/-- `OK` (R281). -/
def errOk : BitVec 4 := 0

/-- `ERR_CAPACITY` (R281). -/
def errCapacity : BitVec 4 := 1

/-- `ERR_PARAM` (R281). -/
def errParam : BitVec 4 := 2

/-- `ERR_CMD` (R281). -/
def errCmd : BitVec 4 := 3

/-- The flag of bit `k` of `WARN` (R34), raised when `b` holds. -/
def flagBit (k : Nat) (b : Bool) : BitVec 7 := if b then 1 <<< k else 0

/-- `W_ODD_D0`: `D0` is odd (R127, R286). -/
def wOddD0 (d0 : Nat) : BitVec 7 := flagBit 0 (d0 % 2 == 1)

/-- `W_ODD_D1`: `D1` is odd (R127, R286). -/
def wOddD1 (d1 : Nat) : BitVec 7 := flagBit 1 (d1 % 2 == 1)

/-- `W_BAUD_ADJ`: `CLOCK_HZ mod BAUD ≠ 0` (R123, R286). -/
def wBaudAdj (clk baud : Nat) : BitVec 7 := flagBit 2 (clk % baud != 0)

/-- `W_DEV_CEIL_A`: the deviation exceeds `DEV_CEIL_A` (R215, R237, R286). -/
def wDevCeilA (cfg : Config) (dev : Nat) : BitVec 7 := flagBit 3 (decide (cfg.devCeilA < dev))

/-- `W_DEV_CEIL_B`: the deviation exceeds `DEV_CEIL_B` (R215, R237, R286). -/
def wDevCeilB (cfg : Config) (dev : Nat) : BitVec 7 := flagBit 4 (decide (cfg.devCeilB < dev))

/-- `W_DIV_ORDER`: `D0 < D1` (R215, R286). -/
def wDivOrder (d0 d1 : Nat) : BitVec 7 := flagBit 5 (decide (d0 < d1))

/-- `W_QUANT`: the exact achieved value differs from the request (R227, R286). -/
def wQuant (ach : Frac) (target : Nat) : BitVec 7 := flagBit 6 (!ach.eqNat target)

/-- The warnings of PLAN (R120): odd dividers and the adjusted baud. -/
def timingWarn (cfg : Config) (d0 d1 baud : Nat) : BitVec 7 :=
  wOddD0 d0 ||| wOddD1 d1 ||| wBaudAdj cfg.clockHz baud

/-- The warnings of the RadioConfig derivation (R215). -/
def radioCfgWarn (cfg : Config) (dev d0 d1 : Nat) : BitVec 7 :=
  wDevCeilA cfg dev ||| wDevCeilB cfg dev ||| wDivOrder d0 d1

/-- The two ceiling warnings of ENC_DEV, on the requested deviation (R237). -/
def ceilingWarn (cfg : Config) (dev : Nat) : BitVec 7 := wDevCeilA cfg dev ||| wDevCeilB cfg dev

end Sys2Proof.Machine
end

