-- ==== Sys2Proof/Machine/State.lean ====
section
/-! DEFINITION. The machine's state as plain data: the block's registers (10_state.md), the radio behind its port
(20_memory.md), the sequencer of the contract (42_sequencer_words.md R181), the host's pending actions (R6), and
State.reset (R40, R311, R313). -/

namespace Sys2Proof.Machine

/-- Reasons to stop with a fault: none. Every command ends in success or in a hard error, which is a next state
(R280, R290), and no emitted word can fault (R297). -/
inductive Fault where
deriving DecidableEq, Repr

/-- Reasons to refuse. No instruction's meaning refuses: these are situations to which the spec gives no meaning. -/
inductive Refusal where
  /-- An instruction with no meaning in `exec`, by its mnemonic. Raised by no arm of this model. Safe. -/
  | notModelled (mnemonic : String)
  /-- The sequencer fetched a word that matches no `SEQ16` row: "a model of the sequencer contract *refuses*" it
  (R107, U8). Raised by the fetch. Safe. -/
  | wordOutsideContract (w : BitVec 16)
  /-- The host installs a program while the sequencer runs (R315, R320, U16: refuse). Raised by the install action. Safe. -/
  | installWhileRunning
  /-- The host installs with no committed program (R315: "and only then"). Raised by the install action. Safe. -/
  | installWithoutProgram
  /-- The host installs in the other antenna mode, at another origin or with other wrap bounds than the committed
  program's (R315, R316, U13: refuse). Raised by the install action. Safe. -/
  | installOutsideContract
deriving DecidableEq, Repr

/-- The registers the host writes and no command writes (R21 `RW`, R24 to R27). -/
structure OperandRegs where
  /-- `MODE.TWO_ANT` (R26). -/
  twoAnt : Bool
  /-- `D0` (R24). -/
  d0 : BitVec 16
  /-- `D1` (R24). -/
  d1 : BitVec 16
  /-- `BAUD` (R25). -/
  baud : BitVec 32
  /-- `ARG0` (R27). -/
  arg0 : BitVec 32
  /-- `ARG1` (R27). -/
  arg1 : BitVec 32
  /-- `ARG2` (R27). -/
  arg2 : BitVec 32
  /-- `ARG3` (R27). -/
  arg3 : BitVec 32
deriving DecidableEq, Repr

/-- `RES0` to `RES3` (R28). -/
structure ResultRegs where
  r0 : BitVec 32
  r1 : BitVec 32
  r2 : BitVec 32
  r3 : BitVec 32
deriving DecidableEq, Repr

/-- `PL_T` to `PL_B1`, written together (R29, R126). -/
structure PlanRegs where
  t : BitVec 32
  total : BitVec 32
  baud : BitVec 32
  fp0 : BitVec 32
  rem0 : BitVec 16
  a0 : BitVec 16
  b0 : BitVec 16
  fp1 : BitVec 32
  rem1 : BitVec 16
  a1 : BitVec 16
  b1 : BitVec 16
deriving DecidableEq, Repr

/-- `RC_BAUD` to `RC_MINBW`, written together (R30, R216). -/
structure RadioCfgRegs where
  baud : BitVec 32
  center : BitVec 32
  dev : BitVec 32
  minBw : BitVec 32
deriving DecidableEq, Repr

/-- `PROG_INFO` and `PROG[0..31]`, replaced wholesale (R31, R32). -/
structure ProgramRegs where
  len : BitVec 8
  wrapStart : BitVec 8
  wrapEnd : BitVec 8
  words : Vector (BitVec 16) 32
deriving DecidableEq, Repr

/-- What the radio is doing, as far as this spec says: idle, or anything else (R69, R325). -/
inductive RadioMode where
  | idle
  | other
deriving DecidableEq, Repr

/-- The radio behind its port: its 8-bit register space in canonical form (R63, R67) and its mode (R42, R69). -/
structure Radio where
  mem : List Host.Cell
  mode : RadioMode
deriving DecidableEq, Repr

/-- One transaction of the radio port (R66). -/
inductive RadioTxn where
  /-- `RadioStrobe(s)` (R69). -/
  | strobe (s : BitVec 8)
  /-- `RadioRead(a)` and the value it returned (R67). -/
  | read (a v : BitVec 8)
  /-- `RadioWrite(a, v)` (R68). -/
  | write (a v : BitVec 8)
deriving DecidableEq, Repr

/-- The sequencer of the contract (R181), its instruction store (R62, R78) and whether it is started (R197, R315). -/
structure Seq where
  /-- `pc`: index of the word being executed. -/
  pc : BitVec 5
  /-- The model's own: the index `pc` takes when the word in progress ends (log 6). -/
  npc : BitVec 5
  /-- `X`. -/
  x : BitVec 32
  /-- `Y`. -/
  y : BitVec 32
  /-- `OSR`. -/
  osr : BitVec 32
  /-- `OSRCNT`: bits already shifted out; 32 means empty. -/
  osrcnt : Fin 33
  /-- `FIFO`, head first. -/
  fifo : List (BitVec 32)
  /-- `P1`, the primary pin. -/
  p1 : Bool
  /-- `P2`, the second pin. -/
  p2 : Bool
  /-- `DLY`: delay cycles still to wait. -/
  dly : BitVec 5
  /-- `SS`: side-set on. -/
  ss : Bool
  /-- `WRAP_START`. -/
  wrapStart : BitVec 5
  /-- `WRAP_END`. -/
  wrapEnd : BitVec 5
  /-- The instruction store. -/
  imem : Vector (BitVec 16) 32
  /-- Started and not stopped since. -/
  running : Bool
  /-- The model's own: how many free values have been taken (log 8). -/
  draws : Nat
deriving DecidableEq, Repr

/-- What the outside world does next (R6, R75; log 2). Each action is one step. -/
inductive Action where
  /-- The host writes `v` to register number `r` (R20). -/
  | write (r : BitVec 6) (v : BitVec 32)
  /-- The host reads register number `r` (R20). -/
  | read (r : BitVec 6)
  /-- The platform resets the block (R310, R313). -/
  | reset
  /-- One clock cycle of the sequencer passes (R182). -/
  | cycle
  /-- The host puts a word into the stream FIFO (R183). -/
  | push (w : BitVec 32)
  /-- The host copies the committed program to the instruction store from `origin` on and sets side-set and the wrap
  bounds (R315, R316). -/
  | install (two : Bool) (origin wrapStart wrapEnd : BitVec 5)
  /-- The host starts the sequencer, having left the working registers and pins at these values (R181). -/
  | start (x y : BitVec 32) (p1 p2 : Bool)
  /-- The host stops the sequencer (R197). -/
  | stop
  /-- The driver loads a radio register between commands, as a preset does (R317). -/
  | radioPreset (a v : BitVec 8)
  /-- The host takes the radio out of idle between commands (R319, R325). -/
  | radioResume
deriving DecidableEq, Repr

/-- The whole machine. -/
structure State where
  /-- The model arguments (R8, R11, R183); no step changes them. -/
  cfg : Config
  /-- `CMD` (R22). -/
  cmd : BitVec 8
  /-- `STATUS.ERR` (R23, R281). -/
  err : BitVec 4
  /-- `STATUS.PROG_VALID` (R23). -/
  progValid : Bool
  /-- `WARN` (R34). -/
  warn : BitVec 7
  /-- The operand registers (R24 to R27). -/
  opnd : OperandRegs
  /-- `RES0..3` (R28). -/
  res : ResultRegs
  /-- `PL_*` (R29). -/
  plan : PlanRegs
  /-- `RC_*` (R30). -/
  rc : RadioCfgRegs
  /-- `PROG_INFO` and `PROG` (R31, R32). -/
  prog : ProgramRegs
  /-- The model's own: `TWO_ANT` at the SYNTH that committed `prog` (R106; log 11). -/
  progTwoAnt : Bool
  /-- The radio (R63, R67, R69). -/
  radio : Radio
  /-- The transaction trace, oldest first (R66). -/
  trace : List RadioTxn
  /-- The sequencer (R181). -/
  seq : Seq
  /-- The model's own: the outside world's pending actions, next first (log 2). -/
  script : List Action
  /-- The model's own: what the host's last register read returned (R20; log 15). -/
  rdata : BitVec 32
deriving DecidableEq, Repr

/-! The updates every operation is made of. -/

/-- `CMD <- c` (R22). -/
def State.setCmd (s : State) (c : BitVec 8) : State := { s with cmd := c }

/-- `STATUS.ERR <- e; WARN <- w`, how every command ends (R23, R34). -/
def State.setOutcome (s : State) (e : BitVec 4) (w : BitVec 7) : State := { s with err := e, warn := w }

/-- The operand registers as the host leaves them (R24 to R27). -/
def State.setOpnd (s : State) (o : OperandRegs) : State := { s with opnd := o }

/-- `RES0..3 <- r` (R28). -/
def State.setRes (s : State) (r : ResultRegs) : State := { s with res := r }

/-- `WritePlan` (R126). -/
def State.setPlan (s : State) (p : PlanRegs) : State := { s with plan := p }

/-- `WriteRadioCfg` (R216). -/
def State.setRc (s : State) (r : RadioCfgRegs) : State := { s with rc := r }

/-- The indivisible update of a commit: `PROG`, `PROG_INFO`, `PROG_VALID` (R32, R73), with the mode of the SYNTH (log 11). -/
def State.setProg (s : State) (p : ProgramRegs) (two : Bool) : State :=
  { s with prog := p, progTwoAnt := two, progValid := true }

/-- A radio transaction: what the radio holds after it, and its entry in the trace (R66). -/
def State.transact (s : State) (r : Radio) (t : RadioTxn) : State := { s with radio := r, trace := s.trace ++ [t] }

/-- The radio as the platform leaves it between commands, with no entry in the block's trace (R317, R325). -/
def State.setRadio (s : State) (r : Radio) : State := { s with radio := r }

/-- The sequencer after one of its cycles or a host action on it (R6, R182). -/
def State.setSeq (s : State) (q : Seq) : State := { s with seq := q }

/-- The actions still pending (log 2). -/
def State.setScript (s : State) (l : List Action) : State := { s with script := l }

/-- What a host read returns (R20). -/
def State.setRdata (s : State) (v : BitVec 32) : State := { s with rdata := v }

/-! Reset. -/

/-- Operand registers after reset (R40). -/
def OperandRegs.reset : OperandRegs := ⟨false, 0, 0, 0, 0, 0, 0, 0⟩

/-- Result registers after reset (R40). -/
def ResultRegs.reset : ResultRegs := ⟨0, 0, 0, 0⟩

/-- Planner registers after reset (R40). -/
def PlanRegs.reset : PlanRegs := ⟨0, 0, 0, 0, 0, 0, 0, 0, 0, 0, 0⟩

/-- RadioConfig registers after reset (R40). -/
def RadioCfgRegs.reset : RadioCfgRegs := ⟨0, 0, 0, 0⟩

/-- The program buffer after reset (R40). -/
def ProgramRegs.reset : ProgramRegs := ⟨0, 0, 0, Vector.replicate 32 0⟩

/-- The sequencer as the platform powers it up: the RP2040 PIO's reset values where that family has one (PRESUMED:
`pc` 0, `OSRCNT` 32, FIFO empty, side-set off, wrap 0 to 31, store of zeros, stopped), else 0 (DESIGN CHOICE) (log 5). -/
def Seq.reset : Seq where
  pc := 0
  npc := 0
  x := 0
  y := 0
  osr := 0
  osrcnt := 32
  fifo := []
  p1 := false
  p2 := false
  dly := 0
  ss := false
  wrapStart := 0
  wrapEnd := 31
  imem := Vector.replicate 32 0
  running := false
  draws := 0

/-- The machine right after the platform's power-up reset: every block register 0 (R40, R311); the radio holds
nothing listed and is idle (PRESUMED, log 4); the sequencer as in log 5; no pending action (log 2, log 3). -/
def State.reset : State where
  cfg := Config.default
  cmd := 0
  err := 0
  progValid := false
  warn := 0
  opnd := OperandRegs.reset
  res := ResultRegs.reset
  plan := PlanRegs.reset
  rc := RadioCfgRegs.reset
  prog := ProgramRegs.reset
  progTwoAnt := false
  radio := ⟨[], .idle⟩
  trace := []
  seq := Seq.reset
  script := []
  rdata := 0

end Sys2Proof.Machine
end

