-- ==== Sys2Proof/Machine/Operands.lean ====
section
/-! DEFINITION. The operand forms: the host's register numbers (R21), the fields of the DEC commands' operands
(R260 to R264), and the delay and side-set of a sequencer word by the mode (R95, R96). -/

namespace Sys2Proof.Machine

/-- The registers of R21 by name. -/
inductive HostReg where
  | cmd | status | warn | mode | d0 | d1 | baud | arg0 | arg1 | arg2 | arg3
  | res0 | res1 | res2 | res3 | reserved
  | plT | plTotal | plBaud | plFp0 | plRem0 | plA0 | plB0 | plFp1 | plRem1 | plA1 | plB1
  | rcBaud | rcCenter | rcDev | rcMinBw | progInfo
  | prog (i : Fin 32)
deriving DecidableEq, Repr

/-- The registers 0x00 to 0x1F in order (R21). -/
def lowRegs : List HostReg :=
  [.cmd, .status, .warn, .mode, .d0, .d1, .baud, .arg0, .arg1, .arg2, .arg3, .res0, .res1, .res2, .res3, .reserved]
  ++ [.plT, .plTotal, .plBaud, .plFp0, .plRem0, .plA0, .plB0, .plFp1, .plRem1, .plA1, .plB1]
  ++ [.rcBaud, .rcCenter, .rcDev, .rcMinBw, .progInfo]

/-- The register of a register number: 0x20 + i is `PROG[i]`, the others stand in `lowRegs` (R21). -/
def hostReg (r : BitVec 6) : HostReg :=
  if h : 32 ≤ r.toNat then .prog ⟨r.toNat - 32, by have := r.isLt; omega⟩
  else lowRegs.getD r.toNat .reserved

/-- The low `n` bits of an operand register, upper bits ignored (R260). -/
def lowField (n : Nat) (v : BitVec 32) : Nat := (v.setWidth n).toNat

/-- The delay operand of a word: 5 bits in single-antenna mode (R95), `dss[2:0]` in dual-antenna mode (R96). -/
def delayOf (ss : Bool) (dss : BitVec 5) : BitVec 5 := if ss then (dss.extractLsb' 0 3).setWidth 5 else dss

/-- `SE`, the side-set enable: `dss[4]`, in dual-antenna mode only (R95, R96). -/
def sideEnable (ss : Bool) (dss : BitVec 5) : Bool := ss && dss.getLsbD 4

/-- `SV`, the side-set value: `dss[3]` (R96). -/
def sideValue (dss : BitVec 5) : Bool := dss.getLsbD 3

end Sys2Proof.Machine
end

