-- ==== Sys2Proof/Machine/Ops.lean ====
section
/-! DEFINITION. The shared operations: ending a command well or in a hard error, the radio's memory and its port,
the host's register access, and the sequencer's cycle. -/

namespace Sys2Proof.Machine

/-! How a command ends (R280). -/

/-- `raise Hard(code)`, this block's counterpart of taking an exception: `ERR <- code`, `WARN <- 0`, and nothing else
(R283, R290). Nothing is saved and there is no return from it (R291): the next command simply overwrites `ERR` (R287). -/
def raiseHard (code : BitVec 4) (s : State) : State := s.setOutcome code 0

/-- A successful end: `ERR <- OK`, `WARN <-` the accumulated warnings (R34, R280). -/
def succeed (warnings : BitVec 7) (s : State) : State := s.setOutcome errOk warnings

/-- A meaning that always goes on (R280). -/
abbrev Result := Host.Outcome State Fault Refusal

/-! The radio's register space as canonical memory (R63, R67). -/

/-- What a radio register reads as when neither the block nor the driver has written it. The spec leaves it to the
platform (R67, U5); these are the TI CC2500's reset values at the default addresses of R11 and 0 elsewhere, where no
rule reads (PRESUMED, log 4; unsafe). -/
def radioUnlisted (a : Nat) : BitVec 8 :=
  if a = 0x0D then 0x5E
  else if a = 0x0E then 0xC4
  else if a = 0x0F then 0xEC
  else if a = 0x10 then 0x8C
  else if a = 0x11 then 0x22
  else if a = 0x13 then 0x22
  else if a = 0x14 then 0xF8
  else if a = 0x15 then 0x47
  else 0x00

/-- The byte at an address (R67). -/
def memRead : List Host.Cell → Nat → BitVec 8
  | [], a => radioUnlisted a
  | (k, v) :: rest, a => if k = a then v else memRead rest a

/-- The contents after writing a byte (R68), in canonical form: sorted, and no entry equal to `radioUnlisted`. -/
def memWrite : List Host.Cell → Nat → BitVec 8 → List Host.Cell
  | [], a, v => if v = radioUnlisted a then [] else [(a, v)]
  | (k, w) :: rest, a, v =>
    if a < k then (if v = radioUnlisted a then (k, w) :: rest else (a, v) :: (k, w) :: rest)
    else if a = k then (if v = radioUnlisted a then rest else (a, v) :: rest)
    else (k, w) :: memWrite rest a v

/-- Every address of the list is above `lo`-bound and they rise strictly, below 256; no entry reads as unlisted. -/
def memWfFrom (lo : Nat) : List Host.Cell → Bool
  | [] => true
  | (k, v) :: rest => decide (lo ≤ k) && decide (k < 256) && (v != radioUnlisted k) && memWfFrom (k + 1) rest

/-- The canonical form of a radio register space (R60: 256 addresses). -/
def Memory.wf (m : List Host.Cell) : Bool := memWfFrom 0 m

/-! The radio port (R66). -/

/-- `RadioStrobe(s)` (R69): `S_IDLE` puts the chip in idle; the strobe touches no register. -/
def radioStrobe (c : BitVec 8) (s : State) : State :=
  s.transact { s.radio with mode := if c = s.cfg.sIdle then .idle else s.radio.mode } (.strobe c)

/-- The value `RadioRead(a)` returns (R67). -/
def radioValue (a : BitVec 8) (s : State) : BitVec 8 := memRead s.radio.mem a.toNat

/-- `RadioRead(a)` as a transaction: it changes nothing in the radio (R67). -/
def radioRead (a : BitVec 8) (s : State) : State := s.transact s.radio (.read a (radioValue a s))

/-- `RadioWrite(a, v)` (R68). -/
def radioWrite (a v : BitVec 8) (s : State) : State :=
  s.transact { s.radio with mem := memWrite s.radio.mem a.toNat v } (.write a v)

/-- Read-modify-write of the field with mask `m` at address `a` to `f`: two consecutive transactions (R70). -/
def radioModify (a m f : BitVec 8) (s : State) : State :=
  radioWrite a ((radioValue a s &&& ~~~m) ||| f) (radioRead a s)

/-! The host's register access (R20 to R36). -/

/-- `STATUS` as the host reads it (R23). -/
def statusWord (s : State) : BitVec 32 := (BitVec.ofBool s.progValid ++ s.err).setWidth 32

/-- `PROG_INFO` as the host reads it (R31). -/
def progInfoWord (p : ProgramRegs) : BitVec 32 := (p.wrapEnd ++ p.wrapStart ++ p.len).setWidth 32

/-- What a host read of a register returns: the register in the low bits, reserved bits and registers 0 (R20, R21, R36). -/
def readReg (s : State) : HostReg → BitVec 32
  | .cmd => s.cmd.setWidth 32
  | .status => statusWord s
  | .warn => s.warn.setWidth 32
  | .mode => (BitVec.ofBool s.opnd.twoAnt).setWidth 32
  | .d0 => s.opnd.d0.setWidth 32
  | .d1 => s.opnd.d1.setWidth 32
  | .baud => s.opnd.baud
  | .arg0 => s.opnd.arg0
  | .arg1 => s.opnd.arg1
  | .arg2 => s.opnd.arg2
  | .arg3 => s.opnd.arg3
  | .res0 => s.res.r0
  | .res1 => s.res.r1
  | .res2 => s.res.r2
  | .res3 => s.res.r3
  | .reserved => 0
  | .plT => s.plan.t
  | .plTotal => s.plan.total
  | .plBaud => s.plan.baud
  | .plFp0 => s.plan.fp0
  | .plRem0 => s.plan.rem0.setWidth 32
  | .plA0 => s.plan.a0.setWidth 32
  | .plB0 => s.plan.b0.setWidth 32
  | .plFp1 => s.plan.fp1
  | .plRem1 => s.plan.rem1.setWidth 32
  | .plA1 => s.plan.a1.setWidth 32
  | .plB1 => s.plan.b1.setWidth 32
  | .rcBaud => s.rc.baud
  | .rcCenter => s.rc.center
  | .rcDev => s.rc.dev
  | .rcMinBw => s.rc.minBw
  | .progInfo => progInfoWord s.prog
  | .prog i => s.prog.words[i.val].setWidth 32

/-- The value a host read of register number `r` returns (R20). -/
def hostRead (r : BitVec 6) (s : State) : BitVec 32 := readReg s (hostReg r)

/-- What a host write to a register other than `CMD` does to the operand registers: a read-write register takes the
low bits of its width; a write to a read-only or reserved register is ignored (R20, R21, R36). -/
def writeOpnd (o : OperandRegs) (v : BitVec 32) : HostReg → OperandRegs
  | .mode => { o with twoAnt := v.getLsbD 0 }
  | .d0 => { o with d0 := v.setWidth 16 }
  | .d1 => { o with d1 := v.setWidth 16 }
  | .baud => { o with baud := v }
  | .arg0 => { o with arg0 := v }
  | .arg1 => { o with arg1 := v }
  | .arg2 => { o with arg2 := v }
  | .arg3 => { o with arg3 := v }
  | _ => o

/-- A host write of `v` to register number `r` other than `CMD` (R36). -/
def hostWrite (r : BitVec 6) (v : BitVec 32) (s : State) : State := s.setOpnd (writeOpnd s.opnd v (hostReg r))

/-- Reset of the block: every register of R21 to 0; the sequencer and the radio are not touched (R40, R311, R313). -/
def blockReset (s : State) : State :=
  { s with cmd := 0, err := 0, progValid := false, warn := 0, opnd := OperandRegs.reset, res := ResultRegs.reset,
           plan := PlanRegs.reset, rc := RadioCfgRegs.reset, prog := ProgramRegs.reset, progTwoAnt := false }

/-! The sequencer's cycle (R182 to R185). -/

/-- The word at `pc` (R62, R78). -/
def seqWord (q : Seq) : BitVec 16 := q.imem[q.pc.toNat]'(by have := q.pc.isLt; omega)

/-- Where a word that is not a taken jump goes: to `WRAP_START` from `WRAP_END`, else to the next index (R185). -/
def seqFall (q : Seq) : BitVec 5 := if q.pc = q.wrapEnd then q.wrapStart else q.pc + 1

/-- The side-set of a word (R184): with `SS = 1` and `SE = 1`, `P2 <- SV`. -/
def seqSideSet (dss : BitVec 5) (q : Seq) : Seq :=
  { q with p2 := if sideEnable q.ss dss then sideValue dss else q.p2 }

/-- The end of a word's first cycle: its delay operand `n` leaves `n` cycles to wait, and `pc` goes to `next` when
they have passed, at once if there are none (R182, R185; log 6). -/
def seqAdvance (dss next : BitVec 5) (q : Seq) : Seq :=
  { q with pc := if delayOf q.ss dss = 0 then next else q.pc, npc := next, dly := delayOf q.ss dss }

/-- A word's common part: the side-set and the advance, after its own operation gave `q` (R182, R184, R185). -/
def seqFinish (dss next : BitVec 5) (q : Seq) : Seq := seqAdvance dss next (seqSideSet dss q)

/-- A delay cycle: nothing changes but the count of cycles to wait, and `pc` when it runs out (R182; log 6). -/
def seqWait (q : Seq) : Seq :=
  { q with dly := q.dly - 1, pc := if q.dly = 1 then q.npc else q.pc }

/-- Autopull (R183): with `OSRCNT = 32`, refill `OSR` from the FIFO's head; none when the FIFO is empty too. -/
def seqRefill (q : Seq) : Option Seq :=
  if q.osrcnt = 32 then
    match q.fifo with
    | [] => none
    | w :: rest => some { q with osr := w, osrcnt := 0, fifo := rest }
  else some q

/-- The next `n` bits of `OSR` in the platform's direction (R183). -/
def shiftBits (dir : ShiftDir) (n : Nat) (osr : BitVec 32) : BitVec 32 :=
  match dir with
  | .right => BitVec.ofNat 32 (osr.toNat % 2 ^ n)
  | .left => osr >>> (32 - n)

/-- `OSR` after `n` bits have left it (R183). -/
def shiftRest (dir : ShiftDir) (n : Nat) (osr : BitVec 32) : BitVec 32 :=
  match dir with
  | .right => osr >>> n
  | .left => osr <<< n

/-- `OSRCNT` after `n` more bits have left (R183). Past 32, which no emitted program reaches, the spec states no
result: the free value of draw `k` (log 8). -/
def shiftCount (n : Nat) (c : Fin 33) (k : Nat) : Fin 33 :=
  if h : c.val + n ≤ 32 then ⟨c.val + n, by omega⟩ else Config.freeOsrcnt k

/-- How many free values have been taken after `n` more bits have left (log 8). -/
def shiftDraws (n : Nat) (c : Fin 33) (k : Nat) : Nat := if c.val + n ≤ 32 then k else k + 1

/-- `OUT d, n` (R183): the bits taken and the sequencer after taking them; none when the word stalls. -/
def seqTake (dir : ShiftDir) (n : Nat) (q : Seq) : Option (BitVec 32 × Seq) :=
  match seqRefill q with
  | none => none
  | some r =>
    some (shiftBits dir n r.osr, { r with osr := shiftRest dir n r.osr,
                                          osrcnt := shiftCount n r.osrcnt r.draws,
                                          draws := shiftDraws n r.osrcnt r.draws })

/-- An `OUT` word: take `n` bits and give them to `dest`; a stall occupies the cycle and changes nothing
(R182, R183; log 7). -/
def seqOut (n : Nat) (dest : BitVec 32 → Seq → Seq) (dss : BitVec 5) (s : State) : Result :=
  match seqTake s.cfg.shiftDir n s.seq with
  | none => .next s
  | some (bits, q) => .next (s.setSeq (seqFinish dss (seqFall q) (dest bits q)))

/-- A word other than `OUT`: its own operation gave `q`, and the next index is `next` (R182). -/
def seqDo (dss next : BitVec 5) (q : Seq) (s : State) : Result := .next (s.setSeq (seqFinish dss next q))

/-! What the host does to the sequencer and the platform to the radio, between steps. -/

/-- The host puts a word at the FIFO's end (R183). -/
def seqPush (w : BitVec 32) (q : Seq) : Seq := { q with fifo := q.fifo ++ [w] }

/-- The start state of R181: `pc = 0`, `OSRCNT = 32`, `DLY = 0`; working registers and pins as the host left them.
What else start and stop keep: DESIGN CHOICE, log 19. The start is accepted whatever the store holds, an installed
program or not (R196 says only what must be configured for the contract to hold): DESIGN CHOICE, log 23. -/
def seqStart (x y : BitVec 32) (p1 p2 : Bool) (q : Seq) : Seq :=
  { q with pc := 0, npc := 0, osrcnt := 32, dly := 0, x := x, y := y, p1 := p1, p2 := p2, running := true }

/-- The host stops the sequencer, which keeps what it holds (R197). -/
def seqStop (q : Seq) : Seq := { q with running := false }

/-- The instruction store with `PROG[0 .. LEN-1]` copied to 0 .. `LEN-1` (R62, R315). -/
def copyProgram (p : ProgramRegs) (imem : Vector (BitVec 16) 32) : Vector (BitVec 16) 32 :=
  Vector.ofFn fun i => if i.val < p.len.toNat then p.words[i.val] else imem[i.val]

/-- The sequencer with the committed program installed, at origin 0, with its wrap bounds and its antenna mode, ready
to start at 0 (R315, R316). -/
def seqInstall (p : ProgramRegs) (two : Bool) (q : Seq) : Seq :=
  { q with imem := copyProgram p q.imem, ss := two, wrapStart := p.wrapStart.setWidth 5,
           wrapEnd := p.wrapEnd.setWidth 5, pc := 0, npc := 0, dly := 0 }

/-- The host's installation of a program (R315, R316): refused while the sequencer runs (R320, U16), when there is no
committed program, and with a mode, origin or bounds other than the program's (U13; log 10). -/
def install (two : Bool) (origin wrapStart wrapEnd : BitVec 5) (s : State) : Result :=
  if s.seq.running then .refused .installWhileRunning
  else if !s.progValid then .refused .installWithoutProgram
  else if two = s.progTwoAnt ∧ origin = 0 ∧ wrapStart = s.prog.wrapStart.setWidth 5
      ∧ wrapEnd = s.prog.wrapEnd.setWidth 5 then
    .next (s.setSeq (seqInstall s.prog two s.seq))
  else .refused .installOutsideContract

/-- The driver loads a radio register between commands (R317). -/
def radioPreset (a v : BitVec 8) (s : State) : State :=
  s.setRadio { s.radio with mem := memWrite s.radio.mem a.toNat v }

/-- The host takes the radio out of idle between commands (R325). -/
def radioResume (s : State) : State := s.setRadio { s.radio with mode := .other }

end Sys2Proof.Machine
end

