-- ==== Sys2Proof/Machine/CodecEnc.lean ====
section
/-! DEFINITION. The Radio Parameter Codec, Hz to register: the four ENC commands (44_codec_encode.md). Each computes
its fields and the exact achieved value, makes its transactions with the idle strobe first (R226), then reports
(R225, R228) and never fails (R245). -/

namespace Sys2Proof.Machine

/-- What an ENC command reports (R227, R228): requested, achieved and saturated, and the two fields. -/
def encResult (target : BitVec 32) (ach : Frac) (f2 f3 : Nat) : ResultRegs :=
  ⟨target, sat32 ach.floor, BitVec.ofNat 32 f2, BitVec.ofNat 32 f3⟩

/-! ENC_FREQ. -/

/-- The carrier frequency of the formula of R232. -/
def freqValue (f freq chan m e : Nat) : Frac := ⟨f * (4 * freq + chan * (256 + m) * 2 ^ e), 2 ^ 18⟩

/-- `N4` of R229: the target in quarter steps, saturated high. -/
def freqQuarters (f t : Nat) : Nat := min (roundDiv (t * 2 ^ 18) f) (4 * (2 ^ 24 + 63) + 3)

/-- The fields `(FREQ, M)` of R229. -/
def freqFields (f t : Nat) : Nat × Nat :=
  let n4 := freqQuarters f t
  if n4 < 256 then (0, 0) else ((n4 - n4 % 4) / 4 - 64, n4 % 4)

/-- The transactions of R230. -/
def freqTransactions (freq m : Nat) (s : State) : State :=
  let w := BitVec.ofNat 24 freq
  let s1 := radioStrobe s.cfg.sIdle s
  let s2 := radioWrite s.cfg.aFreq2 (w.extractLsb' 16 8) s1
  let s3 := radioWrite s.cfg.aFreq1 (w.extractLsb' 8 8) s2
  let s4 := radioWrite s.cfg.aFreq0 (w.extractLsb' 0 8) s3
  let s5 := radioWrite s.cfg.aChannr 0x01 s4
  let s6 := radioModify s.cfg.aMdmcfg1 0x03 0x00 s5
  radioWrite s.cfg.aMdmcfg0 (BitVec.ofNat 8 m) s6

/-- `ENC_FREQ` (R229). -/
def execEncFreq (s : State) : Result :=
  let t := s.opnd.arg0.toNat
  let q := freqFields s.cfg.fRef t
  let ach := freqValue s.cfg.fRef q.1 1 q.2 0
  .next (succeed (wQuant ach t) ((freqTransactions q.1 q.2 s).setRes (encResult s.opnd.arg0 ach q.1 q.2)))

/-! ENC_DRATE and ENC_DEV share the mantissa step of R233 and R237. -/

/-- The mantissa rounded at exponent `e` and settled: below 0 it saturates low, above `mMax` it carries into the
exponent, or saturates high when the exponent is `eMax` (R233, R237). `top` is the implicit leading mantissa bit. -/
def settleMantissa (rounded top mMax eMax e : Nat) : Nat × Nat :=
  if rounded < top then (e, 0)
  else if mMax < rounded - top then (if e < eMax then (e + 1, 0) else (e, mMax))
  else (e, rounded - top)

/-- The data rate of the formula of R234. -/
def drateValue (f e m : Nat) : Frac := ⟨f * (256 + m) * 2 ^ e, 2 ^ 28⟩

/-- The exponent chosen by R233 before any carry. -/
def drateExp (f r : Nat) : Nat := largestExp (fun e => decide (256 * 2 ^ e * f ≤ r * 2 ^ 28)) 15

/-- The fields `(E, M)` of R233. -/
def drateFields (f r : Nat) : Nat × Nat :=
  settleMantissa (roundDiv (r * 2 ^ 28) (f * 2 ^ drateExp f r)) 256 255 15 (drateExp f r)

/-- The transactions of R235. -/
def drateTransactions (e m : Nat) (s : State) : State :=
  let s1 := radioStrobe s.cfg.sIdle s
  let s2 := radioModify s.cfg.aMdmcfg4 0x0F (BitVec.ofNat 8 e) s1
  radioWrite s.cfg.aMdmcfg3 (BitVec.ofNat 8 m) s2

/-- `ENC_DRATE` (R233). -/
def execEncDrate (s : State) : Result :=
  let r := s.opnd.arg0.toNat
  let q := drateFields s.cfg.fRef r
  let ach := drateValue s.cfg.fRef q.1 q.2
  .next (succeed (wQuant ach r) ((drateTransactions q.1 q.2 s).setRes (encResult s.opnd.arg0 ach q.1 q.2)))

/-- The deviation of the formula of R238. -/
def devValue (f e m : Nat) : Frac := ⟨f * (8 + m) * 2 ^ e, 2 ^ 17⟩

/-- The exponent chosen by R237 before any carry. -/
def devExp (f d : Nat) : Nat := largestExp (fun e => decide (8 * 2 ^ e * f ≤ d * 2 ^ 17)) 7

/-- The fields `(E, M)` of R237. -/
def devFields (f d : Nat) : Nat × Nat :=
  settleMantissa (roundDiv (d * 2 ^ 17) (f * 2 ^ devExp f d)) 8 7 7 (devExp f d)

/-- The transactions of R239: bits 7 and 3 of the register are preserved. -/
def devTransactions (e m : Nat) (s : State) : State :=
  let s1 := radioStrobe s.cfg.sIdle s
  radioModify s.cfg.aDeviatn 0x77 ((BitVec.ofNat 8 e <<< 4) ||| BitVec.ofNat 8 m) s1

/-- `ENC_DEV` (R237): the ceilings are compared with the requested value. -/
def execEncDev (s : State) : Result :=
  let d := s.opnd.arg0.toNat
  let q := devFields s.cfg.fRef d
  let ach := devValue s.cfg.fRef q.1 q.2
  .next (succeed (wQuant ach d ||| ceilingWarn s.cfg d)
    ((devTransactions q.1 q.2 s).setRes (encResult s.opnd.arg0 ach q.1 q.2)))

/-! ENC_BW. -/

/-- The bandwidth of the formula of R242. -/
def bwValue (f e m : Nat) : Frac := ⟨f, 8 * (4 + m) * 2 ^ e⟩

/-- The sixteen candidates `(e, m)`, narrowest filter first (R241). -/
def bwCandidates : List (Nat × Nat) := [3, 2, 1, 0].flatMap fun e => [3, 2, 1, 0].map fun m => (e, m)

/-- The fields `(E, M)` of R241: the narrowest filter that is wide enough, else the widest. -/
def bwFields (f b : Nat) : Nat × Nat :=
  (bwCandidates.find? fun q => decide (b * 8 * (4 + q.2) * 2 ^ q.1 ≤ f)).getD (0, 0)

/-- The transactions of R244. -/
def bwTransactions (e m : Nat) (s : State) : State :=
  let s1 := radioStrobe s.cfg.sIdle s
  radioModify s.cfg.aMdmcfg4 0xF0 ((BitVec.ofNat 8 e <<< 6) ||| (BitVec.ofNat 8 m <<< 4)) s1

/-- `ENC_BW` (R241). -/
def execEncBw (s : State) : Result :=
  let b := s.opnd.arg0.toNat
  let q := bwFields s.cfg.fRef b
  let ach := bwValue s.cfg.fRef q.1 q.2
  .next (succeed (wQuant ach b) ((bwTransactions q.1 q.2 s).setRes (encResult s.opnd.arg0 ach q.1 q.2)))

end Sys2Proof.Machine
end

