-- ==== Sys2Proof/Machine/CodecDec.lean ====
section
/-! DEFINITION. The Radio Parameter Codec, register to Hz: the four DEC commands (45_codec_decode.md). They read the
`ARG` registers alone, make no transaction, raise no warning and cannot fail (R260). -/

namespace Sys2Proof.Machine

/-- The common end of R260: `RES0 <- min(floor(v), 2^32 − 1)`, `RES1..3 <- 0`, no warning, `OK`. -/
def decodeTo (v : Frac) (s : State) : State := succeed 0 (s.setRes ⟨sat32 v.floor, 0, 0, 0⟩)

/-- `DEC_FREQ` (R261). -/
def execDecFreq (s : State) : Result :=
  .next (decodeTo (freqValue s.cfg.fRef (lowField 24 s.opnd.arg0) (lowField 8 s.opnd.arg1) (lowField 8 s.opnd.arg2)
    (lowField 2 s.opnd.arg3)) s)

/-- `DEC_DRATE` (R262). -/
def execDecDrate (s : State) : Result :=
  .next (decodeTo (drateValue s.cfg.fRef (lowField 4 s.opnd.arg0) (lowField 8 s.opnd.arg1)) s)

/-- `DEC_DEV` (R263). -/
def execDecDev (s : State) : Result :=
  .next (decodeTo (devValue s.cfg.fRef (lowField 3 s.opnd.arg0) (lowField 3 s.opnd.arg1)) s)

/-- `DEC_BW` (R264). -/
def execDecBw (s : State) : Result :=
  .next (decodeTo (bwValue s.cfg.fRef (lowField 2 s.opnd.arg0) (lowField 2 s.opnd.arg1)) s)

end Sys2Proof.Machine
end

