-- ==== Sys2Proof/Machine/Planner.lean ====
section
/-! DEFINITION. The Symbol Timing Planner and PLAN (40_planner.md). -/

namespace Sys2Proof.Machine

/-- `Timebase` (R122, R123): `T`, `total_cycles` and the achieved baud. -/
structure Timebase where
  t : Nat
  total : Nat
  baudAch : Nat
deriving DecidableEq, Repr

/-- `SymbolPlan` (R124, R125): full periods, remainder and the correction pair. -/
structure SymPlan where
  fp : Nat
  rem : Nat
  a : Nat
  b : Nat
deriving DecidableEq, Repr

/-- `ParamCheck(d0, d1, baud)` passes (R121). -/
def paramOk (clk d0 d1 baud : Nat) : Bool :=
  decide (2 ≤ d0) && decide (2 ≤ d1) && decide (1 ≤ baud) && decide (fixedOverhead ≤ clk / baud)

/-- The achieved baud (R123): `round(CLOCK_HZ / round(CLOCK_HZ / baud))` when `baud` does not divide `CLOCK_HZ`. -/
def baudAchieved (clk baud : Nat) : Nat :=
  if clk % baud ≠ 0 then roundDiv clk (roundDiv clk baud) else baud

/-- `Timebase(baud)` (R122, R123). -/
def timebase (clk baud : Nat) : Timebase where
  t := clk / baud
  total := clk / baud - fixedOverhead
  baudAch := baudAchieved clk baud

/-- `SymbolPlan(total, d)` (R124, R125). -/
def symbolPlan (total d : Nat) : SymPlan where
  fp := total / d
  rem := total % d
  a := min (total % d) (d / 2)
  b := total % d - min (total % d) (d / 2)

/-- The registers `WritePlan` assigns (R126). -/
def planRegs (tb : Timebase) (p0 p1 : SymPlan) : PlanRegs where
  t := BitVec.ofNat 32 tb.t
  total := BitVec.ofNat 32 tb.total
  baud := BitVec.ofNat 32 tb.baudAch
  fp0 := BitVec.ofNat 32 p0.fp
  rem0 := BitVec.ofNat 16 p0.rem
  a0 := BitVec.ofNat 16 p0.a
  b0 := BitVec.ofNat 16 p0.b
  fp1 := BitVec.ofNat 32 p1.fp
  rem1 := BitVec.ofNat 16 p1.rem
  a1 := BitVec.ofNat 16 p1.a
  b1 := BitVec.ofNat 16 p1.b

/-- The whole plan of a pair of dividers and a baud (R120). -/
def fullPlan (clk d0 d1 baud : Nat) : PlanRegs :=
  let tb := timebase clk baud
  planRegs tb (symbolPlan tb.total d0) (symbolPlan tb.total d1)

/-- `PLAN` (R120): the parameter check, the plan, the timing warnings. -/
def execPlan (s : State) : Result :=
  let d0 := s.opnd.d0.toNat
  let d1 := s.opnd.d1.toNat
  let baud := s.opnd.baud.toNat
  if paramOk s.cfg.clockHz d0 d1 baud then
    .next (succeed (timingWarn s.cfg d0 d1 baud) (s.setPlan (fullPlan s.cfg.clockHz d0 d1 baud)))
  else .next (raiseHard errParam s)

end Sys2Proof.Machine
end

