-- ==== Sys2Proof/Machine/RadioCfg.lean ====
section
/-! DEFINITION. The RadioConfig derivation and RCFG (43_radioconfig.md). -/

namespace Sys2Proof.Machine

/-- The center offset (R211, R212). -/
def rcCenter (clk d0 d1 : Nat) : Nat := (clk / d0 + clk / d1) / 2

/-- The deviation `|clock/d1 − center|` (R213). -/
def rcDeviation (clk d0 d1 : Nat) : Nat :=
  if rcCenter clk d0 d1 ≤ clk / d1 then clk / d1 - rcCenter clk d0 d1 else rcCenter clk d0 d1 - clk / d1

/-- The minimum receiver bandwidth, from the achieved baud (R214). -/
def rcMinBw (clk d0 d1 baud : Nat) : Nat := baudAchieved clk baud + 2 * rcDeviation clk d0 d1

/-- The registers `WriteRadioCfg` assigns (R216). -/
def radioCfgRegs (clk d0 d1 baud : Nat) : RadioCfgRegs where
  baud := BitVec.ofNat 32 (baudAchieved clk baud)
  center := BitVec.ofNat 32 (rcCenter clk d0 d1)
  dev := BitVec.ofNat 32 (rcDeviation clk d0 d1)
  minBw := BitVec.ofNat 32 (rcMinBw clk d0 d1 baud)

/-- The warnings of RCFG, and of SYNTH (R160, R210, R215). -/
def derivationWarn (cfg : Config) (d0 d1 baud : Nat) : BitVec 7 :=
  timingWarn cfg d0 d1 baud ||| radioCfgWarn cfg (rcDeviation cfg.clockHz d0 d1) d0 d1

/-- `RCFG` (R210). -/
def execRcfg (s : State) : Result :=
  let d0 := s.opnd.d0.toNat
  let d1 := s.opnd.d1.toNat
  let baud := s.opnd.baud.toNat
  if paramOk s.cfg.clockHz d0 d1 baud then
    .next (succeed (derivationWarn s.cfg d0 d1 baud) (s.setRc (radioCfgRegs s.cfg.clockHz d0 d1 baud)))
  else .next (raiseHard errParam s)

end Sys2Proof.Machine
end

