-- ==== Sys2Proof/Machine/SeqWords.lean ====
section
/-! DEFINITION. The ten words of the sequencer contract (42_sequencer_words.md R186 to R195). A meaning is the word's
first cycle; its delay cycles are `seqWait` steps (R182). -/

namespace Sys2Proof.Machine

/-- `out null, 32` (R186): 32 bits from the stream, discarded. -/
def execOutNull (dss : BitVec 5) (s : State) : Result := seqOut 32 (fun _ q => q) dss s

/-- `out y, 32` (R187). -/
def execOutY (dss : BitVec 5) (s : State) : Result := seqOut 32 (fun bits q => { q with y := bits }) dss s

/-- `out x, 1` (R188): one bit, zero-extended. -/
def execOutX (dss : BitVec 5) (s : State) : Result := seqOut 1 (fun bits q => { q with x := bits }) dss s

/-- `jmp !x, t` (R189). -/
def execJmpNotX (dss t : BitVec 5) (s : State) : Result :=
  seqDo dss (if s.seq.x = 0 then t else seqFall s.seq) s.seq s

/-- `set y, n` (R190). -/
def execSetY (dss n : BitVec 5) (s : State) : Result :=
  seqDo dss (seqFall s.seq) { s.seq with y := n.setWidth 32 } s

/-- `set pins, 1` (R191). -/
def execSetPins1 (dss : BitVec 5) (s : State) : Result := seqDo dss (seqFall s.seq) { s.seq with p1 := true } s

/-- `set pins, 0` (R192). -/
def execSetPins0 (dss : BitVec 5) (s : State) : Result := seqDo dss (seqFall s.seq) { s.seq with p1 := false } s

/-- `nop`, `mov y, y` (R193): no state changes. -/
def execNop (dss : BitVec 5) (s : State) : Result := seqDo dss (seqFall s.seq) s.seq s

/-- `jmp y--, t` (R194): the jump is decided on the old `Y`, which is decremented either way. -/
def execJmpYDec (dss t : BitVec 5) (s : State) : Result :=
  seqDo dss (if s.seq.y ≠ 0 then t else seqFall s.seq) { s.seq with y := s.seq.y - 1 } s

/-- `jmp t` (R195). -/
def execJmp (dss t : BitVec 5) (s : State) : Result := seqDo dss t s.seq s

end Sys2Proof.Machine
end

