-- ==== Sys2Proof/Machine/Synth.lean ====
section
/-! DEFINITION. The Waveform Program Synthesizer and SYNTH (41_synthesizer.md): pass 1 lays out block lengths and
labels on numbers, pass 2 emits words; the two are separate pure functions (R151). -/

namespace Sys2Proof.Machine

/-- `cap(MODE)` (R12, R140). -/
def capOf (two : Bool) : Nat := if two then capDual else capSingle

/-- `SETHI` (R142): `set pins, 1`, with side 0 in dual-antenna mode. -/
def setHi (two : Bool) : Word16 := 0xE001 ||| (if two then 0x1000 else 0)

/-- `SETLO` (R142): `set pins, 0`, with side 1 in dual-antenna mode. -/
def setLo (two : Bool) : Word16 := 0xE000 ||| (if two then 0x1800 else 0)

/-- `NOP` (R142): `mov y, y`, never side-set. -/
def nopWord : Word16 := 0xA042

/-- A base word that is to occupy `c` cycles (R102). -/
def withCycles (base : Word16) (c : Nat) : Word16 := base ||| (BitVec.ofNat 16 (c - 1) <<< 8)

/-- The loop of R143, from the word `w` with `remaining` cycles to spend; `fuel` bounds the number of rounds. -/
def chainFrom (cap : Nat) : Nat → Word16 → Nat → List Word16
  | 0, _, _ => []
  | fuel + 1, w, remaining =>
    if remaining = 0 then []
    else withCycles w (min cap remaining) :: chainFrom cap fuel nopWord (remaining - min cap remaining)

/-- `Chain(base, v, cap)` (R143): each round spends at least one cycle, so `v` rounds are enough. -/
def chain (base : Word16) (v cap : Nat) : List Word16 := chainFrom cap v base v

/-! Pass 1. -/

/-- `G_k = IC(fp_k, LOOP_CAP)` (R145). -/
def groupCount (p : SymPlan) : Nat := ic p.fp loopCap

/-- `GL_k = 2 + H_k + Lo_k` (R145). -/
def groupLen (d cap : Nat) : Nat := 2 + ic (d / 2) cap + ic (d / 2 - 1) cap

/-- `BlockLen` (R147). -/
def blockLen (d : Nat) (p : SymPlan) (cap : Nat) : Nat :=
  groupCount p * groupLen d cap + ic p.a cap + ic p.b cap + 1

/-- The iterations `n_{k,g}` of loop group `g` (R146). -/
def groupIters (p : SymPlan) (g : Nat) : Nat := min loopCap (p.fp - g * loopCap)

/-- `L_get` (R150). -/
def labelGet : Nat := 2

/-- `L_sym1` (R150). -/
def labelSym1 : Nat := 4

/-- `L_sym0` (R150). -/
def labelSym0 (d1 : Nat) (p1 : SymPlan) (cap : Nat) : Nat := 4 + blockLen d1 p1 cap

/-- `L_loop(k, g)` in a block that starts at `start` (R150). -/
def labelLoop (start d cap g : Nat) : Nat := start + g * groupLen d cap + 1

/-- The program length `N` (R149). -/
def programLen (d0 d1 : Nat) (p0 p1 : SymPlan) (cap : Nat) : Nat := 4 + blockLen d1 p1 cap + blockLen d0 p0 cap

/-! Pass 2. -/

/-- `EmitPrologue()` (R152). -/
def emitPrologue (sym0 : Nat) : List Word16 := [0x6060, 0x6040, 0x6021, 0x0020 ||| BitVec.ofNat 16 sym0]

/-- `EmitGroup(k, g)` in a block that starts at `start` (R154). -/
def emitGroup (two : Bool) (start d : Nat) (p : SymPlan) (g : Nat) : List Word16 :=
  (0xE040 ||| BitVec.ofNat 16 (groupIters p g - 1)) :: chain (setHi two) (d / 2) (capOf two)
    ++ chain (setLo two) (d / 2 - 1) (capOf two) ++ [0x0080 ||| BitVec.ofNat 16 (labelLoop start d (capOf two) g)]

/-- `EmitSymbolBlock(k)` at `start`: the loop groups, the correction pair, the jump back (R153, R155). -/
def emitBlock (two : Bool) (start d : Nat) (p : SymPlan) : List Word16 :=
  (List.range (groupCount p)).flatMap (emitGroup two start d p) ++ chain (setHi two) p.a (capOf two)
    ++ chain (setLo two) p.b (capOf two) ++ [0x0000 ||| BitVec.ofNat 16 labelGet]

/-- The build list `B`: prologue, symbol-1 block, symbol-0 block (R140, R151). -/
def emitProgram (two : Bool) (d0 d1 : Nat) (p0 p1 : SymPlan) : List Word16 :=
  emitPrologue (labelSym0 d1 p1 (capOf two)) ++ emitBlock two labelSym1 d1 p1
    ++ emitBlock two (labelSym0 d1 p1 (capOf two)) d0 p0

/-- `Commit(B)` (R157): the words, 0x0000 after them, `LEN`, `WRAP_START` and `WRAP_END` (R158). -/
def commitRegs (n : Nat) (b : List Word16) : ProgramRegs where
  len := BitVec.ofNat 8 n
  wrapStart := 0
  wrapEnd := BitVec.ofNat 8 (n - 1)
  words := Vector.ofFn fun i => b.getD i.val 0x0000

/-- `SYNTH` (R140): parameter check, plan, layout, capacity check (R156), emission, commit, and the other outputs
(R159, R160); a failure leaves everything else alone (R161). -/
def execSynth (s : State) : Result :=
  let clk := s.cfg.clockHz
  let d0 := s.opnd.d0.toNat
  let d1 := s.opnd.d1.toNat
  let baud := s.opnd.baud.toNat
  let two := s.opnd.twoAnt
  if paramOk clk d0 d1 baud then
    let total := (timebase clk baud).total
    let p0 := symbolPlan total d0
    let p1 := symbolPlan total d1
    let n := programLen d0 d1 p0 p1 (capOf two)
    if imemWords < n then .next (raiseHard errCapacity s)
    else
      .next (succeed (derivationWarn s.cfg d0 d1 baud)
        (((s.setProg (commitRegs n (emitProgram two d0 d1 p0 p1)) two).setPlan (fullPlan clk d0 d1 baud)).setRc
          (radioCfgRegs clk d0 d1 baud)))
  else .next (raiseHard errParam s)

end Sys2Proof.Machine
end

