-- ==== Sys2Proof/Machine/Dispatch.lean ====
section
/-! DEFINITION. The dispatch: one arm per instruction. -/

namespace Sys2Proof.Machine

def exec (i : Instr) (s : State) : Host.Outcome State Fault Refusal :=
  match i with
  | .plan => Sys2Proof.Machine.execPlan s
  | .synth => Sys2Proof.Machine.execSynth s
  | .rcfg => Sys2Proof.Machine.execRcfg s
  | .encFreq => Sys2Proof.Machine.execEncFreq s
  | .encDrate => Sys2Proof.Machine.execEncDrate s
  | .encDev => Sys2Proof.Machine.execEncDev s
  | .encBw => Sys2Proof.Machine.execEncBw s
  | .decFreq => Sys2Proof.Machine.execDecFreq s
  | .decDrate => Sys2Proof.Machine.execDecDrate s
  | .decDev => Sys2Proof.Machine.execDecDev s
  | .decBw => Sys2Proof.Machine.execDecBw s
  | .outNull dss => Sys2Proof.Machine.execOutNull dss s
  | .outY dss => Sys2Proof.Machine.execOutY dss s
  | .outX dss => Sys2Proof.Machine.execOutX dss s
  | .jmpNotX dss t => Sys2Proof.Machine.execJmpNotX dss t s
  | .setY dss n => Sys2Proof.Machine.execSetY dss n s
  | .setPins1 dss => Sys2Proof.Machine.execSetPins1 dss s
  | .setPins0 dss => Sys2Proof.Machine.execSetPins0 dss s
  | .nop dss => Sys2Proof.Machine.execNop dss s
  | .jmpYDec dss t => Sys2Proof.Machine.execJmpYDec dss t s
  | .jmp dss t => Sys2Proof.Machine.execJmp dss t s

end Sys2Proof.Machine
end

