-- ==== Sys2Proof/Machine/Fetch.lean ====
section
/-! DEFINITION. What the next step is: which agent moves (R6), and which instruction it runs, if any (log 2). -/

namespace Sys2Proof.Machine

/-- What a step has to do. -/
inductive Issue where
  /-- Run an instruction on a state. -/
  | run (i : Instr) (s : State)
  /-- Nothing to run: the step's outcome is settled. -/
  | settle (o : Host.Outcome State Fault Refusal)
deriving Repr

/-- A write to `CMD` (R22): the code is stored and its command started; a reserved code is a hard error (R93, R285). -/
def commandIssue (c : BitVec 8) (s : State) : Issue :=
  match decodeCmd c with
  | .ok i => .run i (s.setCmd c)
  | .error _ => .settle (.next (raiseHard errCmd (s.setCmd c)))

/-- A cycle of the sequencer (R182): stopped, it does nothing; in a delay, it waits; else it executes the word at
`pc`, which is refused when it matches no row (R107). -/
def cycleIssue (s : State) : Issue :=
  if !s.seq.running then .settle (.next s)
  else if s.seq.dly ≠ 0 then .settle (.next (s.setSeq (seqWait s.seq)))
  else
    match decodeSeq (seqWord s.seq) with
    | .ok i => .run i s
    | .error _ => .settle (.refused (.wordOutsideContract (seqWord s.seq)))

/-- A host or platform action, on the state with the action taken off the script (R22, R36, R75). -/
def actionIssue (a : Action) (s : State) : Issue :=
  match a with
  | .write r v => if hostReg r = .cmd then commandIssue (v.setWidth 8) s else .settle (.next (hostWrite r v s))
  | .read r => .settle (.next (s.setRdata (hostRead r s)))
  | .reset => .settle (.next (blockReset s))
  | .cycle => cycleIssue s
  | .push w => .settle (.next (s.setSeq (seqPush w s.seq)))
  | .install two origin wrapStart wrapEnd => .settle (install two origin wrapStart wrapEnd s)
  | .start x y p1 p2 => .settle (.next (s.setSeq (seqStart x y p1 p2 s.seq)))
  | .stop => .settle (.next (s.setSeq (seqStop s.seq)))
  | .radioPreset a v => .settle (.next (radioPreset a v s))
  | .radioResume => .settle (.next (radioResume s))

/-- The next step: the script's next action, or, with none pending, a cycle of the sequencer (log 2). -/
def issue (s : State) : Issue :=
  match s.script with
  | [] => cycleIssue s
  | a :: rest => actionIssue a (s.setScript rest)

/-- A command code placed where the next step finds it: as the host's next write to `CMD` (R22; log 3). -/
def placeCommand (w : Nat) (s : State) : State := s.setScript (.write 0 (BitVec.ofNat 32 w) :: s.script)

/-- The sequencer with word `w` at `pc`, started and not in a delay (log 3). -/
def seqPlace (w : BitVec 16) (q : Seq) : Seq :=
  { q with imem := q.imem.set q.pc.toNat w (by have := q.pc.isLt; omega), running := true, dly := 0 }

/-- A sequencer word placed where the next step finds it: at `pc` of the running sequencer, whose cycle comes next
(R182; log 3). -/
def placeWord (w : Nat) (s : State) : State :=
  (s.setSeq (seqPlace (BitVec.ofNat 16 w) s.seq)).setScript (.cycle :: s.script)

end Sys2Proof.Machine
end

