-- ==== Sys2Proof/Machine/Step.lean ====
section
/-! DEFINITION. One step of the machine. -/

namespace Sys2Proof.Machine

/-- One step (R6): what `issue` says comes next, run by `exec` when it is an instruction. -/
def step (s : State) : Host.Outcome State Fault Refusal :=
  match issue s with
  | .run i t => exec i t
  | .settle o => o

/-- The state with an instruction placed where the very next step fetches it: a command of 8 bits as the host's next
write to `CMD`, a word of 16 bits in the instruction store at `pc` (log 3). -/
def State.withFetchWord (s : State) (nbits w : Nat) : State :=
  if nbits = 8 then placeCommand w s else placeWord w s

end Sys2Proof.Machine
end

