-- ==== Sys2Proof/WellFormed.lean ====
section
/-! DEFINITION. Which instruction words the block may emit: a table row with a legal `dss` (R102, R105, R107).
The types of the operands already say what an encoding can hold, so encoding and decoding need no check;
this check is the one of R107, and it depends on the antenna mode. -/

namespace Sys2Proof

/-- The side-set half `{SE, SV}` of a `dss` field in dual-antenna mode (R96). -/
abbrev sidePart (dss : BitVec 5) : BitVec 2 := dss.extractLsb' 3 2

/-- A legal instruction for the antenna mode `two` (R107): a command always; a word other than `set pins` and `nop`
with `dss = 0` (R152 to R154); in single-antenna mode a `set pins` or `nop` with any delay (R95, R102); in
dual-antenna mode `set pins, 1` with `SE = 1, SV = 0`, `set pins, 0` with `SE = 1, SV = 1`, `nop` with
`SE = 0, SV = 0` (R105). -/
def Instr.wellFormed (two : Bool) : Instr → Bool
  | .plan => true
  | .synth => true
  | .rcfg => true
  | .encFreq => true
  | .encDrate => true
  | .encDev => true
  | .encBw => true
  | .decFreq => true
  | .decDrate => true
  | .decDev => true
  | .decBw => true
  | .outNull dss => dss == 0
  | .outY dss => dss == 0
  | .outX dss => dss == 0
  | .jmpNotX dss _ => dss == 0
  | .setY dss _ => dss == 0
  | .setPins1 dss => !two || sidePart dss == 0b10
  | .setPins0 dss => !two || sidePart dss == 0b11
  | .nop dss => !two || sidePart dss == 0b00
  | .jmpYDec dss _ => dss == 0
  | .jmp dss _ => dss == 0

/-- Whether the instruction is a word of the sequencer (format `SEQ16`) and not a command (R90). -/
def Instr.isWord : Instr → Bool
  | .plan => false
  | .synth => false
  | .rcfg => false
  | .encFreq => false
  | .encDrate => false
  | .encDev => false
  | .encBw => false
  | .decFreq => false
  | .decDrate => false
  | .decDev => false
  | .decBw => false
  | .outNull _ => true
  | .outY _ => true
  | .outX _ => true
  | .jmpNotX _ _ => true
  | .setY _ _ => true
  | .setPins1 _ => true
  | .setPins0 _ => true
  | .nop _ => true
  | .jmpYDec _ _ => true
  | .jmp _ _ => true

end Sys2Proof
end

