-- ==== Sys2Proof/Safety.lean ====
section
/-! DEFINITION. The terms statements are made in: valid operands, the invariants of the block and of the sequencer. -/

namespace Sys2Proof.Machine

/-- The operands of PLAN, SYNTH and RCFG pass `ParamCheck`: the four conditions of R121. -/
abbrev ParamsValid (s : State) : Prop :=
  2 ≤ s.opnd.d0.toNat ∧ 2 ≤ s.opnd.d1.toNat ∧ 1 ≤ s.opnd.baud.toNat ∧ 4 ≤ s.cfg.clockHz / s.opnd.baud.toNat

/-- `total_cycles` of R122, from the requested baud. -/
abbrev totalCycles (s : State) : Nat := s.cfg.clockHz / s.opnd.baud.toNat - 4

/-- The plans of the two symbols (R124, R125): of symbol 0 with `D0`, of symbol 1 with `D1`. -/
abbrev planOf0 (s : State) : SymPlan := symbolPlan (totalCycles s) s.opnd.d0.toNat

/-- See `planOf0`. -/
abbrev planOf1 (s : State) : SymPlan := symbolPlan (totalCycles s) s.opnd.d1.toNat

/-- The program length `N` of R149 for the operands a state holds. -/
abbrev lengthOf (s : State) : Nat :=
  programLen s.opnd.d0.toNat s.opnd.d1.toNat (planOf0 s) (planOf1 s) (capOf s.opnd.twoAnt)

/-- An instruction's jump target, if it has one, is below `n` (R103, R185). -/
def targetBelow (n : Nat) : Instr → Bool
  | .jmpNotX _ t => decide (t.toNat < n)
  | .jmpYDec _ t => decide (t.toNat < n)
  | .jmp _ t => decide (t.toNat < n)
  | _ => true

/-- A word of a program of `n` words in antenna mode `two`: it decodes to a legal word whose target is in the
program (R103, R107, R185). -/
def wordLegal (two : Bool) (n : Nat) (w : Word16) : Bool :=
  match decodeSeq w with
  | .ok i => i.wellFormed two && targetBelow n i
  | .error _ => false

/-- The committed program of `p` in antenna mode `two`: R33's bounds, R158's wrap, every word legal, 0x0000 beyond
`LEN` (R157), and the last word `jmp 2` (R153, R185). -/
abbrev ProgramGood (p : ProgramRegs) (two : Bool) : Prop :=
  6 ≤ p.len.toNat ∧ p.len.toNat ≤ 32 ∧ p.wrapStart = 0 ∧ p.wrapEnd.toNat + 1 = p.len.toNat ∧
  (∀ i : Fin 32, i.val < p.len.toNat → wordLegal two p.len.toNat p.words[i.val] = true) ∧
  (∀ i : Fin 32, p.len.toNat ≤ i.val → p.words[i.val] = 0x0000) ∧
  (∀ i : Fin 32, i.val + 1 = p.len.toNat → p.words[i.val] = 0x0002)

/-- What the program registers hold: with `PROG_VALID` a good program (R33), without it their reset values (R33, R40). -/
abbrev ProgramInv (s : State) : Prop :=
  (s.progValid = true → ProgramGood s.prog s.progTwoAnt) ∧
  (s.progValid = false → s.prog = ProgramRegs.reset ∧ s.progTwoAnt = false)

/-- The sequencer stays inside its program: every word up to `WRAP_END` is legal for its mode, and `pc`, the next index
and `WRAP_START` are at most `WRAP_END` (R185). -/
abbrev SeqInv (q : Seq) : Prop :=
  (∀ i : Fin 32, i.val ≤ q.wrapEnd.toNat → wordLegal q.ss (q.wrapEnd.toNat + 1) q.imem[i.val] = true) ∧
  q.pc.toNat ≤ q.wrapEnd.toNat ∧ q.npc.toNat ≤ q.wrapEnd.toNat ∧ q.wrapStart.toNat ≤ q.wrapEnd.toNat

/-- The radio's register space is in canonical form and `STATUS.ERR` holds a code of R281. -/
abbrev PortInv (s : State) : Prop := Memory.wf s.radio.mem = true ∧ s.err.toNat ≤ 3

/-- The invariant of the whole machine. -/
abbrev Inv (s : State) : Prop := PortInv s ∧ ProgramInv s ∧ SeqInv s.seq

end Sys2Proof.Machine
end

