-- ==== Sys2Proof/Certificates/Slice0/Obligations.lean ====
section
/-! DEFINITION. The statements, with the few terms they are written in. -/

open Sys2Proof Sys2Proof.Machine

/-! The terms of the statements, written from the rules on plain numbers. -/

namespace Sys2Proof.Spec

/-- A value of `WARN` by its seven flags, bit 0 first (R34). -/
def warnOf (b0 b1 b2 b3 b4 b5 b6 : Prop) [Decidable b0] [Decidable b1] [Decidable b2] [Decidable b3] [Decidable b4]
    [Decidable b5] [Decidable b6] : BitVec 7 :=
  BitVec.ofNat 7 ((if b0 then 1 else 0) + (if b1 then 2 else 0) + (if b2 then 4 else 0) + (if b3 then 8 else 0)
    + (if b4 then 16 else 0) + (if b5 then 32 else 0) + (if b6 then 64 else 0))

/-- The achieved baud of R123, in the rule's own integer formulas. -/
def achievedBaud (clk baud : Nat) : Nat :=
  if clk % baud = 0 then baud
  else (2 * clk + (2 * clk + baud) / (2 * baud)) / (2 * ((2 * clk + baud) / (2 * baud)))

/-- What an ENC command may change (R225, R228): `ERR`, `WARN`, `RES0..3`, the radio, the trace. -/
def encFrame (s t : State) : Prop :=
  t = { s with err := t.err, warn := t.warn, res := t.res, radio := t.radio, trace := t.trace }

/-- Every radio register but the listed ones reads as before. -/
def othersKept (written : List (BitVec 8)) (s t : State) : Prop :=
  ∀ a, a ∉ written → radioValue a t = radioValue a s

/-- The next index of a word that is not a taken jump (R185). -/
def nextIndex (q : Seq) : BitVec 5 := if q.pc = q.wrapEnd then q.wrapStart else q.pc + 1

/-- The delay operand of a word by the mode (R95, R96). -/
def delayCount (q : Seq) (dss : BitVec 5) : Nat := if q.ss then dss.toNat % 8 else dss.toNat

/-- The sequencer at the end of a word's first cycle, its own operation having given `q`: side-set (R184), the delay
to wait (R182), and the index that follows (R185). That `pc` moves only when the delay has passed is the model's
reading, log 6. -/
def afterWord (dss next : BitVec 5) (q : Seq) : Seq :=
  { q with p2 := if q.ss = true ∧ dss.getLsbD 4 = true then dss.getLsbD 3 else q.p2
           pc := if delayCount q dss = 0 then next else q.pc
           npc := next
           dly := BitVec.ofNat 5 (delayCount q dss) }

/-- `OSR`, the count of bits gone and the FIFO that an `OUT` finds after autopull (R183). -/
def pulled (q : Seq) : BitVec 32 × Nat × List (BitVec 32) :=
  if q.osrcnt = 32 then (q.fifo.headD 0, 0, q.fifo.tail) else (q.osr, q.osrcnt.val, q.fifo)

/-- `OSRCNT` after 32 bits have left an `OSR` of which `c` had gone (R183): 32, or a free value when some had (log 8). -/
def countAfter32 (c : Nat) (q : Seq) : Fin 33 := if c = 0 then 32 else Config.freeOsrcnt q.draws

/-- The count of free values taken, after the same (log 8). -/
def drawsAfter32 (c : Nat) (q : Seq) : Nat := if c = 0 then q.draws else q.draws + 1

/-- The commands that start with `ParamCheck` (R121). -/
def timingCommands : List Instr := [.plan, .synth, .rcfg]

/-- `ceil(v / cap)` of R14: the words a delay of `v` cycles takes (R16, R144). -/
def ceilDiv (v cap : Nat) : Nat := (v + cap - 1) / cap

/-- The instruction at index `i` of a committed program, if there is one. -/
def wordAt (p : ProgramRegs) (i : Nat) : Option Instr :=
  if i < p.len.toNat then p.words[i]?.bind fun w => (decodeSeq w).toOption else none

/-- The `dss` of a word that drives the pin high or low and has delay operand `n` (R95, R96, R105): in dual-antenna mode
`SE = 1` and `SV` the complement of the pin. -/
def pinDss (two hi : Bool) (n : Nat) : BitVec 5 :=
  BitVec.ofNat 5 (n + if two then (if hi then 16 else 24) else 0)

/-- From index `pos` on stands the chain that drives the pin high or low for `v` cycles (R143): a pin word, then `nop`s,
each with the delay operand `min(cap, remaining) − 1`; no word when `v` is 0. -/
abbrev ChainAt (p : ProgramRegs) (two hi : Bool) (cap pos v : Nat) : Prop :=
  ∀ j, j < ceilDiv v cap → wordAt p (pos + j) = some
    (if j = 0 then (if hi then .setPins1 (pinDss two hi (min cap v - 1)) else .setPins0 (pinDss two hi (min cap v - 1)))
      else .nop (BitVec.ofNat 5 (min cap (v - j * cap) - 1)))

/-- `GL` of R145: the words of one loop group for divider `d`. -/
def groupWords (d cap : Nat) : Nat := 2 + ceilDiv (d / 2) cap + ceilDiv (d / 2 - 1) cap

/-- At index `pos` stands a loop group for divider `d` of `n` iterations (R154): the count `n − 1`, the high half of
`d div 2` cycles, the low half of `d div 2 − 1`, and the jump to the first word of the high half. -/
abbrev GroupAt (p : ProgramRegs) (two : Bool) (cap pos d n : Nat) : Prop :=
  wordAt p pos = some (.setY 0 (BitVec.ofNat 5 (n - 1))) ∧ ChainAt p two true cap (pos + 1) (d / 2) ∧
  ChainAt p two false cap (pos + 1 + ceilDiv (d / 2) cap) (d / 2 - 1) ∧
  wordAt p (pos + groupWords d cap - 1) = some (.jmpYDec 0 (BitVec.ofNat 5 (pos + 1)))

/-- From index `pos` on stand the correction pair of `a` high and `b` low cycles and the jump to `L_get` (R153, R155). -/
abbrev EndAt (p : ProgramRegs) (two : Bool) (cap pos a b : Nat) : Prop :=
  ChainAt p two true cap pos a ∧ ChainAt p two false cap (pos + ceilDiv a cap) b ∧
  wordAt p (pos + ceilDiv a cap + ceilDiv b cap) = some (.jmp 0 2)

/-- From index `start` on stands the block of a symbol with divider `d`, `fp` full periods and the correction `a`, `b`
(R146, R153): its loop groups, 32 periods in each but the last, then its end. -/
abbrev BlockAt (p : ProgramRegs) (two : Bool) (cap start d fp a b : Nat) : Prop :=
  (∀ g, g < ceilDiv fp 32 → GroupAt p two cap (start + g * groupWords d cap) d (min 32 (fp - 32 * g))) ∧
  EndAt p two cap (start + ceilDiv fp 32 * groupWords d cap) a b

/-- The words of such a block (R147). -/
def blockWords (cap d fp a b : Nat) : Nat := ceilDiv fp 32 * groupWords d cap + ceilDiv a cap + ceilDiv b cap + 1

/-- The four ENC commands (R92). -/
def encCommands : List Instr := [.encFreq, .encDrate, .encDev, .encBw]

/-- The exact achieved value of an ENC command differs from the request `t` (R227), by the formulas of R232, R234, R238
and R242 on the fields the command returned in `RES2` and `RES3`. -/
def quantized (i : Instr) (f t r2 r3 : Nat) : Prop :=
  (i = .encFreq ∧ f * (4 * r2 + 256 + r3) ≠ t * 2 ^ 18) ∨
  (i = .encDrate ∧ f * (256 + r3) * 2 ^ r2 ≠ t * 2 ^ 28) ∨
  (i = .encDev ∧ f * (8 + r3) * 2 ^ r2 ≠ t * 2 ^ 17) ∨
  (i = .encBw ∧ f ≠ t * (8 * (4 + r3) * 2 ^ r2))

end Sys2Proof.Spec

open Sys2Proof.Spec

/-! Reset, the host's access, and steps. -/

/-- R311, R313: after reset every host register reads 0; a reset of the block from any state leaves every register
reading 0 and touches neither the sequencer nor the radio, with no transaction. -/
def Obligations.ResetClearsTheRegisterFileOnly : Prop :=
  (∀ r : BitVec 6, hostRead r State.reset = 0) ∧
  ∀ (s : State) (rest : List Action), s.script = .reset :: rest →
    ∃ t, step s = .next t ∧ (∀ r : BitVec 6, hostRead r t = 0) ∧ t.seq = s.seq ∧ t.radio = s.radio ∧ t.trace = s.trace

/-- The machine's invariant holds at reset. (The sequencer's and the radio's part of the reset state are the model's
choice, logs 4 and 5.) -/
def Obligations.ResetMeetsTheInvariant : Prop := Inv State.reset

/-- R22: a host write whose low 8 bits are a command's code stores the code in `CMD` and runs exactly that command. -/
def Obligations.HostCommandStepRunsTheCommand : Prop :=
  ∀ (s : State) (v : BitVec 32) (rest : List Action) (i : Instr),
    s.script = .write 0 v :: rest → decodeCmd (v.setWidth 8) = .ok i →
    step s = exec i { s with script := rest, cmd := v.setWidth 8 }

/-- R182: a running sequencer that waits for no delay runs exactly the instruction its word at `pc` decodes to, when no
action is pending and when the next action is its cycle (the script is the model's own, log 2). -/
def Obligations.SequencerStepRunsTheWordAtPc : Prop :=
  ∀ (s : State) (i : Instr), s.seq.running = true → s.seq.dly = 0 → decodeSeq (seqWord s.seq) = .ok i →
    (s.script = [] → step s = exec i s) ∧
    (∀ rest, s.script = .cycle :: rest → step s = exec i { s with script := rest })

/-- R182: in the delay cycles of a word nothing changes but the count; when the last has passed, `pc` is at the next
index (log 6). Both when no action is pending and when the next actions are the sequencer's cycles (log 2). -/
def Obligations.DelayCyclesOnlyCountDown : Prop :=
  ∀ (s : State) (k : Nat) (rest : List Action), s.seq.running = true → 0 < s.seq.dly.toNat → k ≤ s.seq.dly.toNat →
    (s.script = [] ∧ rest = []) ∨ s.script = List.replicate k .cycle ++ rest →
    Host.Core.run Sys2Proof.core k s = .next { s with script := rest, seq := { s.seq with
      dly := s.seq.dly - BitVec.ofNat 5 k
      pc := if k = s.seq.dly.toNat then s.seq.npc else s.seq.pc } }

/-- R93, R285: a write of a reserved code to `CMD` stores the code, sets `ERR` to `ERR_CMD` and `WARN` to 0, and changes
nothing else. -/
def Obligations.ReservedCodesEndInErrCmd : Prop :=
  ∀ (s : State) (v : BitVec 32) (rest : List Action) (c : Nat), s.script = .write 0 v :: rest → c = v.toNat % 256 →
    (c = 0 ∨ (0x04 ≤ c ∧ c ≤ 0x0F) ∨ (0x14 ≤ c ∧ c ≤ 0x17) ∨ 0x1C ≤ c) →
    step s = .next { s with script := rest, cmd := BitVec.ofNat 8 c, err := 3, warn := 0 }

/-- R36: a host write to a register other than `CMD` stores the low bits of a read-write register and does nothing
else, and to a read-only or reserved register nothing at all; a host read changes no register and returns 0 for the
reserved register and for reserved bits. -/
def Obligations.HostAccessHasNoOtherEffect : Prop :=
  (∀ (s : State) (r : BitVec 6) (v : BitVec 32) (rest : List Action), s.script = .write r v :: rest → r ≠ 0 →
    ∃ t, step s = .next t ∧ t = { s with script := rest, opnd := t.opnd } ∧
      (∀ r', r' ≠ r → hostRead r' t = hostRead r' s) ∧
      hostRead r t =
        if r = 3 then v &&& 1 else if r = 4 ∨ r = 5 then v &&& 0xFFFF
        else if 6 ≤ r.toNat ∧ r.toNat ≤ 10 then v else hostRead r s) ∧
  (∀ (s : State) (r : BitVec 6) (rest : List Action), s.script = .read r :: rest →
    step s = .next { s with script := rest, rdata := hostRead r s }) ∧
  (∀ s : State, hostRead 0x0F s = 0 ∧ (hostRead 0 s).toNat < 2 ^ 8 ∧ (hostRead 1 s).toNat < 2 ^ 5 ∧
    (hostRead 2 s).toNat < 2 ^ 7 ∧ (hostRead 3 s).toNat < 2 ∧ (hostRead 4 s).toNat < 2 ^ 16 ∧
    (hostRead 5 s).toNat < 2 ^ 16 ∧ (hostRead 0x1F s).toNat < 2 ^ 24 ∧
    (∀ r ∈ [0x14, 0x15, 0x16, 0x18, 0x19, 0x1A], (hostRead (BitVec.ofNat 6 r) s).toNat < 2 ^ 16) ∧
    ∀ i : Fin 32, (hostRead (BitVec.ofNat 6 (0x20 + i.val)) s).toNat < 2 ^ 16)

/-- R21, R23, R31: each register number reads the register of the map. -/
def Obligations.RegisterMapReadsEachRegister : Prop :=
  ∀ s : State,
    (hostRead 0x00 s).toNat = s.cmd.toNat ∧
    (hostRead 0x01 s).toNat = s.err.toNat + (if s.progValid then 16 else 0) ∧
    (hostRead 0x02 s).toNat = s.warn.toNat ∧ (hostRead 0x03 s).toNat = (if s.opnd.twoAnt then 1 else 0) ∧
    (hostRead 0x04 s).toNat = s.opnd.d0.toNat ∧ (hostRead 0x05 s).toNat = s.opnd.d1.toNat ∧
    hostRead 0x06 s = s.opnd.baud ∧ hostRead 0x07 s = s.opnd.arg0 ∧ hostRead 0x08 s = s.opnd.arg1 ∧
    hostRead 0x09 s = s.opnd.arg2 ∧ hostRead 0x0A s = s.opnd.arg3 ∧ hostRead 0x0B s = s.res.r0 ∧
    hostRead 0x0C s = s.res.r1 ∧ hostRead 0x0D s = s.res.r2 ∧ hostRead 0x0E s = s.res.r3 ∧
    hostRead 0x10 s = s.plan.t ∧ hostRead 0x11 s = s.plan.total ∧ hostRead 0x12 s = s.plan.baud ∧
    hostRead 0x13 s = s.plan.fp0 ∧ (hostRead 0x14 s).toNat = s.plan.rem0.toNat ∧
    (hostRead 0x15 s).toNat = s.plan.a0.toNat ∧ (hostRead 0x16 s).toNat = s.plan.b0.toNat ∧
    hostRead 0x17 s = s.plan.fp1 ∧ (hostRead 0x18 s).toNat = s.plan.rem1.toNat ∧
    (hostRead 0x19 s).toNat = s.plan.a1.toNat ∧ (hostRead 0x1A s).toNat = s.plan.b1.toNat ∧
    hostRead 0x1B s = s.rc.baud ∧ hostRead 0x1C s = s.rc.center ∧ hostRead 0x1D s = s.rc.dev ∧
    hostRead 0x1E s = s.rc.minBw ∧
    (hostRead 0x1F s).toNat = s.prog.len.toNat + 2 ^ 8 * s.prog.wrapStart.toNat + 2 ^ 16 * s.prog.wrapEnd.toNat ∧
    ∀ i : Fin 32, (hostRead (BitVec.ofNat 6 (0x20 + i.val)) s).toNat = s.prog.words[i.val].toNat

/-! Encodings. -/

/-- Decoding the encoding of any instruction, with any operands, gives it back. -/
def Obligations.DecodeOfEncodeIsTheInstruction : Prop := ∀ i : Instr, decode (encode i) = .ok i

/-- Every code and every word has one meaning: what it decodes to encodes to it. -/
def Obligations.EncodeOfDecodeIsTheCode : Prop := ∀ (c : Code) (i : Instr), decode c = .ok i → encode i = c

/-- R107, R113: a 16-bit word decodes to an instruction exactly when it matches one of the ten rows of the opcode table
under the row's mask. -/
def Obligations.DecoderAcceptsExactlyTheTableRows : Prop :=
  ∀ w : Word16, (∃ i, decodeSeq w = .ok i) ↔ ∃ r ∈ seqRows, w &&& r.2 = r.1

/-- Words and codes of the spec's tables (R92, R101, R108) decode as the spec says. -/
def Obligations.SampleWordsDecodeAsTheSpecSays : Prop :=
  decodeSeq 0x6060 = .ok (.outNull 0) ∧ decodeSeq 0x6040 = .ok (.outY 0) ∧ decodeSeq 0x6021 = .ok (.outX 0) ∧
  decodeSeq 0x0032 = .ok (.jmpNotX 0 18) ∧ decodeSeq 0x0085 = .ok (.jmpYDec 0 5) ∧ decodeSeq 0x0002 = .ok (.jmp 0 2) ∧
  decodeSeq 0xE05F = .ok (.setY 0 31) ∧ decodeSeq 0xF701 = .ok (.setPins1 0b10111) ∧
  decodeSeq 0xFF00 = .ok (.setPins0 0b11111) ∧ decodeSeq 0xBF42 = .ok (.nop 31) ∧
  decodeSeq 0x8080 = .error (.noSuchWord 0x8080) ∧ decodeSeq 0xE020 = .error (.noSuchWord 0xE020) ∧
  decodeCmd 0x01 = .ok .plan ∧ decodeCmd 0x02 = .ok .synth ∧ decodeCmd 0x03 = .ok .rcfg ∧
  decodeCmd 0x10 = .ok .encFreq ∧ decodeCmd 0x1B = .ok .decBw

/-! The planner, the RadioConfig and the synthesizer. -/

/-- R120: PLAN with valid operands writes the planner's registers, `ERR` = OK and its three warnings, and changes
nothing else; with invalid ones it ends in `ERR_PARAM`. -/
def Obligations.PlanResultsAndFrame : Prop :=
  ∀ (s : State) (clk d0 d1 baud total : Nat), clk = s.cfg.clockHz → d0 = s.opnd.d0.toNat → d1 = s.opnd.d1.toNat →
    baud = s.opnd.baud.toNat → total = clk / baud - 4 →
    (ParamsValid s → exec .plan s = .next { s with
      err := 0
      warn := warnOf (d0 % 2 = 1) (d1 % 2 = 1) (clk % baud ≠ 0) False False False False
      plan :=
        { t := BitVec.ofNat 32 (clk / baud), total := BitVec.ofNat 32 total
          baud := BitVec.ofNat 32 (achievedBaud clk baud)
          fp0 := BitVec.ofNat 32 (total / d0), rem0 := BitVec.ofNat 16 (total % d0)
          a0 := BitVec.ofNat 16 (min (total % d0) (d0 / 2))
          b0 := BitVec.ofNat 16 (total % d0 - min (total % d0) (d0 / 2))
          fp1 := BitVec.ofNat 32 (total / d1), rem1 := BitVec.ofNat 16 (total % d1)
          a1 := BitVec.ofNat 16 (min (total % d1) (d1 / 2))
          b1 := BitVec.ofNat 16 (total % d1 - min (total % d1) (d1 / 2)) } }) ∧
    (¬ ParamsValid s → exec .plan s = .next { s with err := 2, warn := 0 })

/-- R210: RCFG with valid operands writes the RadioConfig registers, `ERR` = OK and its six warnings, and changes
nothing else; with invalid ones it ends in `ERR_PARAM`. -/
def Obligations.RcfgResultsAndFrame : Prop :=
  ∀ (s : State) (clk d0 d1 baud f0 f1 center dev : Nat), clk = s.cfg.clockHz → d0 = s.opnd.d0.toNat →
    d1 = s.opnd.d1.toNat → baud = s.opnd.baud.toNat → f0 = clk / d0 → f1 = clk / d1 → center = (f0 + f1) / 2 →
    dev = (if center ≤ f1 then f1 - center else center - f1) →
    (ParamsValid s → exec .rcfg s = .next { s with
      err := 0
      warn := warnOf (d0 % 2 = 1) (d1 % 2 = 1) (clk % baud ≠ 0) (s.cfg.devCeilA < dev) (s.cfg.devCeilB < dev)
        (d0 < d1) False
      rc :=
        { baud := BitVec.ofNat 32 (achievedBaud clk baud), center := BitVec.ofNat 32 center
          dev := BitVec.ofNat 32 dev, minBw := BitVec.ofNat 32 (achievedBaud clk baud + 2 * dev) } }) ∧
    (¬ ParamsValid s → exec .rcfg s = .next { s with err := 2, warn := 0 })

/-- R140, R157 to R160: SYNTH with valid operands and `N ≤ 32` commits the emitted program, zero beyond it, with its
length and wrap bounds, sets `PROG_VALID`, writes `PL_*` as PLAN and `RC_*` as RCFG with the union of their warnings,
and changes nothing else (`progTwoAnt` is the model's own record of the mode, log 11). -/
def Obligations.SynthResultsAndFrame : Prop :=
  ∀ s : State, ParamsValid s → lengthOf s ≤ 32 →
    ∃ p r, exec .plan s = .next p ∧ exec .rcfg s = .next r ∧
      exec .synth s = .next { s with
        err := 0
        warn := p.warn ||| r.warn
        progValid := true
        progTwoAnt := s.opnd.twoAnt
        plan := p.plan
        rc := r.rc
        prog :=
          { len := BitVec.ofNat 8 (lengthOf s), wrapStart := 0, wrapEnd := BitVec.ofNat 8 (lengthOf s - 1)
            words := Vector.ofFn fun i =>
              (emitProgram s.opnd.twoAnt s.opnd.d0.toNat s.opnd.d1.toNat (planOf0 s) (planOf1 s)).getD i.val 0 } }

/-- R161, with the order of R284: SYNTH with invalid operands ends in `ERR_PARAM`, with valid ones and a program of
more than 32 words in `ERR_CAPACITY`; either way `WARN` is 0 and nothing else changes. -/
def Obligations.SynthFailuresPreserveState : Prop :=
  ∀ s : State,
    (¬ ParamsValid s → exec .synth s = .next { s with err := 2, warn := 0 }) ∧
    (ParamsValid s → 32 < lengthOf s → exec .synth s = .next { s with err := 1, warn := 0 })

/-- R29, R43: with `CLOCK_HZ` in R43's range every planner and RadioConfig result fits its register, so the registers
hold the exact numbers of R122 to R125 and R211 to R214; and the bounds of R43 hold. -/
def Obligations.ResultsFitTheirRegisters : Prop :=
  ∀ (s t u : State) (clk d0 d1 total f0 f1 center : Nat), s.cfg.Valid → ParamsValid s → exec .plan s = .next t →
    exec .rcfg s = .next u → clk = s.cfg.clockHz → d0 = s.opnd.d0.toNat → d1 = s.opnd.d1.toNat →
    total = clk / s.opnd.baud.toNat - 4 → f0 = clk / d0 → f1 = clk / d1 → center = (f0 + f1) / 2 →
    t.plan.t.toNat = clk / s.opnd.baud.toNat ∧ t.plan.total.toNat = total ∧
    t.plan.baud.toNat = achievedBaud clk s.opnd.baud.toNat ∧
    t.plan.fp0.toNat = total / d0 ∧ t.plan.rem0.toNat = total % d0 ∧
    t.plan.a0.toNat = min (total % d0) (d0 / 2) ∧ t.plan.b0.toNat = total % d0 - min (total % d0) (d0 / 2) ∧
    t.plan.fp1.toNat = total / d1 ∧ t.plan.rem1.toNat = total % d1 ∧
    t.plan.a1.toNat = min (total % d1) (d1 / 2) ∧ t.plan.b1.toNat = total % d1 - min (total % d1) (d1 / 2) ∧
    u.rc.baud.toNat = achievedBaud clk s.opnd.baud.toNat ∧ u.rc.center.toNat = center ∧
    u.rc.dev.toNat = (if center ≤ f1 then f1 - center else center - f1) ∧
    u.rc.minBw.toNat = u.rc.baud.toNat + 2 * u.rc.dev.toNat ∧
    t.plan.t.toNat ≤ clk ∧ u.rc.center.toNat ≤ clk / 2 ∧ u.rc.dev.toNat ≤ clk / 2 ∧
    u.rc.minBw.toNat ≤ clk / 4 + clk ∧ clk / 4 + clk < 2 ^ 32

/-- R128: overhead, toggle pairs and correction of each symbol add up to the symbol time; each symbol's plan is
independent of the other's divider; all outputs are functions of `CLOCK_HZ`, `D0`, `D1`, `BAUD` alone. -/
def Obligations.SymbolPlansFillTheSymbolTime : Prop :=
  ∀ (s t : State), s.cfg.Valid → ParamsValid s → exec .plan s = .next t →
    4 + t.plan.fp0.toNat * s.opnd.d0.toNat + t.plan.a0.toNat + t.plan.b0.toNat
      = s.cfg.clockHz / s.opnd.baud.toNat ∧
    4 + t.plan.fp1.toNat * s.opnd.d1.toNat + t.plan.a1.toNat + t.plan.b1.toNat
      = s.cfg.clockHz / s.opnd.baud.toNat ∧
    ∀ (s' t' : State), s'.cfg.clockHz = s.cfg.clockHz → s'.opnd.baud = s.opnd.baud → ParamsValid s' →
      exec .plan s' = .next t' →
      (s'.opnd.d0 = s.opnd.d0 → t'.plan.fp0 = t.plan.fp0 ∧ t'.plan.rem0 = t.plan.rem0 ∧ t'.plan.a0 = t.plan.a0 ∧
        t'.plan.b0 = t.plan.b0) ∧
      (s'.opnd.d1 = s.opnd.d1 → t'.plan.fp1 = t.plan.fp1 ∧ t'.plan.rem1 = t.plan.rem1 ∧ t'.plan.a1 = t.plan.a1 ∧
        t'.plan.b1 = t.plan.b1) ∧
      (s'.opnd.d0 = s.opnd.d0 → s'.opnd.d1 = s.opnd.d1 → t'.plan = t.plan)

/-- R213: the deviation is the distance of symbol 1's tone from the center, at most the tones' distance, and half of
that distance, rounded up when symbol 1's tone is the higher and down otherwise. -/
def Obligations.DeviationClosedForm : Prop :=
  ∀ (s t : State) (f0 f1 : Nat), s.cfg.Valid → ParamsValid s → exec .rcfg s = .next t →
    f0 = s.cfg.clockHz / s.opnd.d0.toNat → f1 = s.cfg.clockHz / s.opnd.d1.toNat →
    t.rc.dev.toNat = (if f1 ≥ t.rc.center.toNat then f1 - t.rc.center.toNat else t.rc.center.toNat - f1) ∧
    (f0 < f1 → t.rc.dev.toNat ≤ f1 - f0 ∧ t.rc.dev.toNat = (f1 - f0 + 1) / 2) ∧
    (f1 ≤ f0 → t.rc.dev.toNat ≤ f0 - f1 ∧ t.rc.dev.toNat = (f0 - f1) / 2)

/-- R217: RCFG and SYNTH, whenever they succeed, write the same RadioConfig for equal `CLOCK_HZ`, `D0`, `D1`, `BAUD`,
whatever the rest of the state; the bandwidth is at least the baud; the deviation is 0 exactly when `f0 − f1` is 0 or 1. -/
def Obligations.RadioConfigIsAPureFunction : Prop :=
  ∀ (i i' : Instr) (s s' t t' : State), i ∈ [Instr.rcfg, .synth] → i' ∈ [Instr.rcfg, .synth] → s.cfg.Valid →
    s'.cfg.clockHz = s.cfg.clockHz → s'.opnd.d0 = s.opnd.d0 → s'.opnd.d1 = s.opnd.d1 → s'.opnd.baud = s.opnd.baud →
    exec i s = .next t → exec i' s' = .next t' → t.err = 0 → t'.err = 0 →
    t'.rc = t.rc ∧ t.rc.baud.toNat ≤ t.rc.minBw.toNat ∧
    (t.rc.dev = 0 ↔ s.cfg.clockHz / s.opnd.d0.toNat = s.cfg.clockHz / s.opnd.d1.toNat ∨
      s.cfg.clockHz / s.opnd.d0.toNat = s.cfg.clockHz / s.opnd.d1.toNat + 1)

/-- R141: SYNTH reads `D0`, `D1`, `BAUD`, `MODE` and the parameters only: from two states that agree on these it gives
equal outcomes, and when it succeeds equal programs, plans and RadioConfigs. -/
def Obligations.SynthDependsOnItsInputsOnly : Prop :=
  ∀ (s s' t t' : State), s'.opnd.d0 = s.opnd.d0 → s'.opnd.d1 = s.opnd.d1 → s'.opnd.baud = s.opnd.baud →
    s'.opnd.twoAnt = s.opnd.twoAnt → s'.cfg.clockHz = s.cfg.clockHz → s'.cfg.devCeilA = s.cfg.devCeilA →
    s'.cfg.devCeilB = s.cfg.devCeilB → exec .synth s = .next t → exec .synth s' = .next t' →
    t'.err = t.err ∧ t'.warn = t.warn ∧
    (t.err = 0 → t'.prog = t.prog ∧ t'.plan = t.plan ∧ t'.rc = t.rc ∧ t'.progValid = t.progValid)

/-- R144: a chain for a delay of `v` cycles has `IC(v, cap)` words, whose operands are below the cap and whose cycles
`operand + 1` add up to `v`, in both modes and for both pin levels. -/
def Obligations.ChainSpendsExactlyItsDelay : Prop :=
  ∀ (two hi : Bool) (v : Nat) (words : List Word16),
    words = chain (if hi then setHi two else setLo two) v (capOf two) →
    words.length = (if v % capOf two = 0 then v / capOf two else v / capOf two + 1) ∧
    (words.map fun w => (delayOf two (fieldDss w)).toNat + 1).sum = v ∧
    ∀ w ∈ words, (delayOf two (fieldDss w)).toNat ≤ capOf two - 1

/-- R143, R105: a chain's first word sets the pin, with the side-set of its level in dual-antenna mode, and every
further word is a `nop` with no side-set. -/
def Obligations.ChainIsAPinWordThenNops : Prop :=
  ∀ (two hi : Bool) (v : Nat), 0 < v → ∃ w rest dss,
    chain (if hi then setHi two else setLo two) v (capOf two) = w :: rest ∧
    decodeSeq w = .ok (if hi then .setPins1 dss else .setPins0 dss) ∧
    sideEnable two dss = two ∧ (two = true → sideValue dss = !hi) ∧
    ∀ w' ∈ rest, ∃ dss', decodeSeq w' = .ok (.nop dss') ∧ sideEnable two dss' = false

/-- R146: the loop groups of a symbol run `min(32, fp − 32·g)` iterations each, 32 in every group but the last, `fp` in
all, and there is none when `fp` is 0. -/
def Obligations.LoopGroupsCoverTheFullPeriods : Prop :=
  ∀ p : SymPlan,
    (∀ g, g < groupCount p → groupIters p g = min 32 (p.fp - g * 32) ∧ 1 ≤ groupIters p g ∧ groupIters p g ≤ 32) ∧
    (∀ g, g + 1 < groupCount p → groupIters p g = 32) ∧
    ((List.range (groupCount p)).map (groupIters p)).sum = p.fp ∧ (p.fp = 0 → groupCount p = 0)

/-- R149 to R151: at each label of R150 (`L_start`, `L_get`, `L_sym1`, `L_sym0`, `L_loop`, `L_corr`, `L_back`) the number
of words emitted so far is the label's closed-form offset, and the whole program has `N` words. `L_start` and `L_get`
are the indices of `out null, 32` and `out x, 1`, and `L_back` is that of the block's last word, the jump to `L_get`. -/
def Obligations.LabelsEqualTheEmissionCursor : Prop :=
  ∀ (two : Bool) (d0 d1 : Nat) (p0 p1 : SymPlan) (x cap : Nat), cap = capOf two →
    (emitPrologue x).length = labelSym1 ∧
    (emitPrologue x ++ emitBlock two labelSym1 d1 p1).length = labelSym0 d1 p1 cap ∧
    (emitProgram two d0 d1 p0 p1).length = programLen d0 d1 p0 p1 cap ∧
    (emitProgram two d0 d1 p0 p1)[0]? = some 0x6060 ∧ (emitProgram two d0 d1 p0 p1)[labelGet]? = some 0x6021 ∧
    ∀ (start d : Nat) (p : SymPlan),
      (emitBlock two start d p).length = blockLen d p cap ∧
      (∀ g, start + ((List.range g).flatMap (emitGroup two start d p)).length + 1 = labelLoop start d cap g) ∧
      start + ((List.range (groupCount p)).flatMap (emitGroup two start d p)).length
        = start + groupCount p * groupLen d cap ∧
      ∃ before, emitBlock two start d p = before ++ [0x0000 ||| BitVec.ofNat 16 labelGet] ∧
        start + before.length = start + blockLen d p cap - 1

/-- R33, R103, R107, R157, R185: every program SYNTH commits has 6 to 32 words, each a legal word of the mode it was
synthesised for whose jump target is inside the program, the last one `jmp 2`, 0x0000 beyond, wrap bounds 0 and
`LEN − 1`. -/
def Obligations.CommittedProgramIsLegal : Prop :=
  ∀ s : State, ParamsValid s → lengthOf s ≤ 32 →
    ∃ t, exec .synth s = .next t ∧ t.progValid = true ∧ t.prog.len.toNat = lengthOf s ∧
      ProgramGood t.prog s.opnd.twoAnt

/-- R150, R152 to R155: every word of a committed program is the one the rules emit at its index: the prologue, with
`jmp !x` to the symbol-0 block, then the symbol-1 block, then the symbol-0 block, and nothing more; in a block each loop
group with its count and its jump to its own first pin word, high half before low half, then the correction pair, high
before low, and the jump to `L_get`. -/
def Obligations.EveryEmittedWordIsTheRulesOwn : Prop :=
  ∀ (s : State) (two : Bool) (cap d0 d1 total rem0 rem1 a0 a1 sym0 : Nat), ParamsValid s → lengthOf s ≤ 32 →
    two = s.opnd.twoAnt → cap = (if two then 8 else 32) → d0 = s.opnd.d0.toNat → d1 = s.opnd.d1.toNat →
    total = s.cfg.clockHz / s.opnd.baud.toNat - 4 → rem0 = total % d0 → rem1 = total % d1 →
    a0 = min rem0 (d0 / 2) → a1 = min rem1 (d1 / 2) → sym0 = 4 + blockWords cap d1 (total / d1) a1 (rem1 - a1) →
    ∃ t, exec .synth s = .next t ∧
      wordAt t.prog 0 = some (.outNull 0) ∧ wordAt t.prog 1 = some (.outY 0) ∧ wordAt t.prog 2 = some (.outX 0) ∧
      wordAt t.prog 3 = some (.jmpNotX 0 (BitVec.ofNat 5 sym0)) ∧
      BlockAt t.prog two cap 4 d1 (total / d1) a1 (rem1 - a1) ∧
      BlockAt t.prog two cap sym0 d0 (total / d0) a0 (rem0 - a0) ∧
      t.prog.len.toNat = sym0 + blockWords cap d0 (total / d0) a0 (rem0 - a0)

/-! The codec. -/

/-- R229, R230, for nine different addresses (R64): ENC_FREQ's fields, results, warning, transactions and what the radio
holds afterwards, with everything else unchanged. -/
def Obligations.EncFreqFieldsAndTransactions : Prop :=
  ∀ (s : State) (f t n4 freq m ach : Nat) (old : BitVec 8), s.cfg.AddressesDistinct → Memory.wf s.radio.mem = true →
    f = s.cfg.fRef → t = s.opnd.arg0.toNat → n4 = min ((2 * (t * 2 ^ 18) + f) / (2 * f)) (4 * (2 ^ 24 + 63) + 3) →
    freq = (if n4 < 256 then 0 else (n4 - n4 % 4) / 4 - 64) → m = (if n4 < 256 then 0 else n4 % 4) →
    ach = f * (4 * freq + 256 + m) → old = radioValue s.cfg.aMdmcfg1 s →
    ∃ u, exec .encFreq s = .next u ∧ encFrame s u ∧ u.err = 0 ∧
      u.warn = warnOf False False False False False False (ach ≠ t * 2 ^ 18) ∧
      u.res = ⟨s.opnd.arg0, BitVec.ofNat 32 (min (ach / 2 ^ 18) (2 ^ 32 - 1)), BitVec.ofNat 32 freq,
        BitVec.ofNat 32 m⟩ ∧
      u.trace = s.trace ++ [.strobe s.cfg.sIdle, .write s.cfg.aFreq2 (BitVec.ofNat 8 (freq / 2 ^ 16)),
        .write s.cfg.aFreq1 (BitVec.ofNat 8 (freq / 2 ^ 8)), .write s.cfg.aFreq0 (BitVec.ofNat 8 freq),
        .write s.cfg.aChannr 0x01, .read s.cfg.aMdmcfg1 old, .write s.cfg.aMdmcfg1 (old &&& 0xFC),
        .write s.cfg.aMdmcfg0 (BitVec.ofNat 8 m)] ∧
      u.radio.mode = .idle ∧ Memory.wf u.radio.mem = true ∧
      radioValue s.cfg.aFreq2 u = BitVec.ofNat 8 (freq / 2 ^ 16) ∧
      radioValue s.cfg.aFreq1 u = BitVec.ofNat 8 (freq / 2 ^ 8) ∧
      radioValue s.cfg.aFreq0 u = BitVec.ofNat 8 freq ∧ radioValue s.cfg.aChannr u = 0x01 ∧
      radioValue s.cfg.aMdmcfg1 u = old &&& 0xFC ∧ radioValue s.cfg.aMdmcfg0 u = BitVec.ofNat 8 m ∧
      othersKept [s.cfg.aFreq2, s.cfg.aFreq1, s.cfg.aFreq0, s.cfg.aChannr, s.cfg.aMdmcfg1, s.cfg.aMdmcfg0] s u

/-- R233, R235, for nine different addresses (R64): ENC_DRATE's fields, results, warning, transactions and what the radio
holds afterwards, with everything else unchanged. `e0` is the rule's largest exponent before a carry. (That `RES1`
saturates as in R227: log 13.) -/
def Obligations.EncDrateFieldsAndTransactions : Prop :=
  ∀ (s : State) (f r : Nat) (old : BitVec 8), s.cfg.AddressesDistinct → Memory.wf s.radio.mem = true →
    f = s.cfg.fRef → r = s.opnd.arg0.toNat → old = radioValue s.cfg.aMdmcfg4 s →
    ∃ e0 n e m u, e0 ≤ 15 ∧ (e0 = 0 ∨ 256 * 2 ^ e0 * f ≤ r * 2 ^ 28) ∧
      (∀ e', e0 < e' → e' ≤ 15 → ¬ 256 * 2 ^ e' * f ≤ r * 2 ^ 28) ∧
      n = (2 * (r * 2 ^ 28) + f * 2 ^ e0) / (2 * (f * 2 ^ e0)) ∧
      (e, m) = (if n < 256 then (e0, 0) else if 255 < n - 256 then (if e0 < 15 then (e0 + 1, 0) else (e0, 255))
        else (e0, n - 256)) ∧
      exec .encDrate s = .next u ∧ encFrame s u ∧ u.err = 0 ∧
      u.warn = warnOf False False False False False False (f * (256 + m) * 2 ^ e ≠ r * 2 ^ 28) ∧
      u.res = ⟨s.opnd.arg0, BitVec.ofNat 32 (min (f * (256 + m) * 2 ^ e / 2 ^ 28) (2 ^ 32 - 1)), BitVec.ofNat 32 e,
        BitVec.ofNat 32 m⟩ ∧
      u.trace = s.trace ++ [.strobe s.cfg.sIdle, .read s.cfg.aMdmcfg4 old,
        .write s.cfg.aMdmcfg4 ((old &&& 0xF0) ||| BitVec.ofNat 8 e), .write s.cfg.aMdmcfg3 (BitVec.ofNat 8 m)] ∧
      u.radio.mode = .idle ∧ Memory.wf u.radio.mem = true ∧
      radioValue s.cfg.aMdmcfg4 u = (old &&& 0xF0) ||| BitVec.ofNat 8 e ∧
      radioValue s.cfg.aMdmcfg3 u = BitVec.ofNat 8 m ∧ othersKept [s.cfg.aMdmcfg4, s.cfg.aMdmcfg3] s u

/-- R237, R239: ENC_DEV's fields, results, warnings, transactions and what the radio holds afterwards, with everything
else unchanged. `e0` is the rule's largest exponent before a carry. (That `RES1` saturates as in R227: log 13.) -/
def Obligations.EncDevFieldsAndTransactions : Prop :=
  ∀ (s : State) (f d : Nat) (old : BitVec 8), Memory.wf s.radio.mem = true →
    f = s.cfg.fRef → d = s.opnd.arg0.toNat → old = radioValue s.cfg.aDeviatn s →
    ∃ e0 n e m u, e0 ≤ 7 ∧ (e0 = 0 ∨ 8 * 2 ^ e0 * f ≤ d * 2 ^ 17) ∧
      (∀ e', e0 < e' → e' ≤ 7 → ¬ 8 * 2 ^ e' * f ≤ d * 2 ^ 17) ∧
      n = (2 * (d * 2 ^ 17) + f * 2 ^ e0) / (2 * (f * 2 ^ e0)) ∧
      (e, m) = (if n < 8 then (e0, 0) else if 7 < n - 8 then (if e0 < 7 then (e0 + 1, 0) else (e0, 7))
        else (e0, n - 8)) ∧
      exec .encDev s = .next u ∧ encFrame s u ∧ u.err = 0 ∧
      u.warn = warnOf False False False (s.cfg.devCeilA < d) (s.cfg.devCeilB < d) False
        (f * (8 + m) * 2 ^ e ≠ d * 2 ^ 17) ∧
      u.res = ⟨s.opnd.arg0, BitVec.ofNat 32 (min (f * (8 + m) * 2 ^ e / 2 ^ 17) (2 ^ 32 - 1)), BitVec.ofNat 32 e,
        BitVec.ofNat 32 m⟩ ∧
      u.trace = s.trace ++ [.strobe s.cfg.sIdle, .read s.cfg.aDeviatn old,
        .write s.cfg.aDeviatn ((old &&& 0x88) ||| BitVec.ofNat 8 (16 * e + m))] ∧
      u.radio.mode = .idle ∧ Memory.wf u.radio.mem = true ∧
      radioValue s.cfg.aDeviatn u = (old &&& 0x88) ||| BitVec.ofNat 8 (16 * e + m) ∧ othersKept [s.cfg.aDeviatn] s u

/-- R241, R244: ENC_BW chooses the narrowest of the sixteen filters that is at least as wide as the request, the widest
when none is; its results, warning, transactions and what the radio holds afterwards, with everything else unchanged.
(That `RES1` saturates as in R227: log 13.) -/
def Obligations.EncBwNarrowestAdequateFilter : Prop :=
  ∀ (s : State) (f b : Nat) (old : BitVec 8), Memory.wf s.radio.mem = true →
    f = s.cfg.fRef → b = s.opnd.arg0.toNat → old = radioValue s.cfg.aMdmcfg4 s →
    ∃ e m u, e ≤ 3 ∧ m ≤ 3 ∧
      ((b * (8 * (4 + m) * 2 ^ e) ≤ f ∧ ∀ e' m', e' ≤ 3 → m' ≤ 3 → (4 + m) * 2 ^ e < (4 + m') * 2 ^ e' →
          f < b * (8 * (4 + m') * 2 ^ e')) ∨
        (e = 0 ∧ m = 0 ∧ ∀ e' m', e' ≤ 3 → m' ≤ 3 → f < b * (8 * (4 + m') * 2 ^ e'))) ∧
      exec .encBw s = .next u ∧ encFrame s u ∧ u.err = 0 ∧
      u.warn = warnOf False False False False False False (f ≠ b * (8 * (4 + m) * 2 ^ e)) ∧
      u.res = ⟨s.opnd.arg0, BitVec.ofNat 32 (min (f / (8 * (4 + m) * 2 ^ e)) (2 ^ 32 - 1)), BitVec.ofNat 32 e,
        BitVec.ofNat 32 m⟩ ∧
      u.trace = s.trace ++ [.strobe s.cfg.sIdle, .read s.cfg.aMdmcfg4 old,
        .write s.cfg.aMdmcfg4 ((old &&& 0x0F) ||| BitVec.ofNat 8 (64 * e + 16 * m))] ∧
      u.radio.mode = .idle ∧ Memory.wf u.radio.mem = true ∧
      radioValue s.cfg.aMdmcfg4 u = (old &&& 0x0F) ||| BitVec.ofNat 8 (64 * e + 16 * m) ∧
      othersKept [s.cfg.aMdmcfg4] s u

/-- R226, R76, R245: from every state every ENC command succeeds, reports its request in `RES0`, and makes the idle
strobe its first transaction, every time; every later one is a read or a write; the radio is left idle. -/
def Obligations.EncCommandsStrobeIdleFirst : Prop :=
  ∀ (i : Instr) (s : State), i ∈ encCommands →
    ∃ u l, exec i s = .next u ∧ u.err = 0 ∧ u.res.r0 = s.opnd.arg0 ∧ u.radio.mode = .idle ∧
      u.trace = s.trace ++ .strobe s.cfg.sIdle :: l ∧ l ≠ [] ∧ ∀ x ∈ l, ∀ c, x ≠ .strobe c

/-- R260, with the formulas of R261 to R264: each DEC command writes the saturated floor of its formula on the masked
operands to `RES0`, 0 to `RES1..3`, 0 to `WARN`, OK to `ERR`, and changes nothing else: no transaction, no strobe. -/
def Obligations.DecCommandsResultAndFrame : Prop :=
  ∀ (s : State) (f a0 a1 a2 a3 : Nat), f = s.cfg.fRef → a0 = s.opnd.arg0.toNat → a1 = s.opnd.arg1.toNat →
    a2 = s.opnd.arg2.toNat → a3 = s.opnd.arg3.toNat →
    exec .decFreq s = .next { s with err := 0, warn := 0, res := ⟨BitVec.ofNat 32
      (min (f * (4 * (a0 % 2 ^ 24) + a1 % 2 ^ 8 * (256 + a2 % 2 ^ 8) * 2 ^ (a3 % 4)) / 2 ^ 18) (2 ^ 32 - 1)), 0, 0, 0⟩ } ∧
    exec .decDrate s = .next { s with err := 0, warn := 0, res := ⟨BitVec.ofNat 32
      (min (f * (256 + a1 % 2 ^ 8) * 2 ^ (a0 % 16) / 2 ^ 28) (2 ^ 32 - 1)), 0, 0, 0⟩ } ∧
    exec .decDev s = .next { s with err := 0, warn := 0, res := ⟨BitVec.ofNat 32
      (min (f * (8 + a1 % 8) * 2 ^ (a0 % 8) / 2 ^ 17) (2 ^ 32 - 1)), 0, 0, 0⟩ } ∧
    exec .decBw s = .next { s with err := 0, warn := 0, res := ⟨BitVec.ofNat 32
      (min (f / (8 * (4 + a1 % 4) * 2 ^ (a0 % 4))) (2 ^ 32 - 1)), 0, 0, 0⟩ }

/-- R266: decoding the fields an ENC command returned gives the value it reported as achieved, for each of the four
conversions and whatever else the state holds; for the frequency with `CHAN` = 1 and `CHANSPC_E` = 0. -/
def Obligations.DecodingReturnedFieldsGivesAchieved : Prop :=
  ∀ (s t u v : State), v.cfg.fRef = s.cfg.fRef →
    (exec .encFreq s = .next t → v.opnd.arg0 = t.res.r2 → v.opnd.arg1 = 1 → v.opnd.arg2 = t.res.r3 → v.opnd.arg3 = 0 →
      exec .decFreq v = .next u → u.res.r0 = t.res.r1) ∧
    (exec .encDrate s = .next t → v.opnd.arg0 = t.res.r2 → v.opnd.arg1 = t.res.r3 → exec .decDrate v = .next u →
      u.res.r0 = t.res.r1) ∧
    (exec .encDev s = .next t → v.opnd.arg0 = t.res.r2 → v.opnd.arg1 = t.res.r3 → exec .decDev v = .next u →
      u.res.r0 = t.res.r1) ∧
    (exec .encBw s = .next t → v.opnd.arg0 = t.res.r2 → v.opnd.arg1 = t.res.r3 → exec .decBw v = .next u →
      u.res.r0 = t.res.r1)

/-- R246, frequency: for a target in the expressible range the exact achieved frequency is within half a quarter step,
`F/2^19`, of the target. -/
def Obligations.FrequencyErrorWithinHalfQuarterStep : Prop :=
  ∀ (s u : State) (f t a : Nat), f = s.cfg.fRef → t = s.opnd.arg0.toNat → 1 ≤ f → 256 * f ≤ t * 2 ^ 18 →
    t * 2 ^ 18 ≤ (4 * (2 ^ 24 + 63) + 3) * f → exec .encFreq s = .next u →
    a = f * (4 * u.res.r2.toNat + 256 + u.res.r3.toNat) → 2 * a ≤ 2 * (t * 2 ^ 18) + f ∧ 2 * (t * 2 ^ 18) ≤ 2 * a + f

/-- R246, data rate and deviation: for a target in the expressible range the exact achieved value is within half a
mantissa step at the chosen exponent. -/
def Obligations.MantissaErrorWithinHalfStep : Prop :=
  ∀ (s u : State) (f t a : Nat), f = s.cfg.fRef → t = s.opnd.arg0.toNat → 1 ≤ f →
    (256 * f ≤ t * 2 ^ 28 → t * 2 ^ 28 ≤ 511 * 2 ^ 15 * f → exec .encDrate s = .next u →
      a = f * (256 + u.res.r3.toNat) * 2 ^ u.res.r2.toNat →
      2 * a ≤ 2 * (t * 2 ^ 28) + f * 2 ^ u.res.r2.toNat ∧ 2 * (t * 2 ^ 28) ≤ 2 * a + f * 2 ^ u.res.r2.toNat) ∧
    (8 * f ≤ t * 2 ^ 17 → t * 2 ^ 17 ≤ 15 * 2 ^ 7 * f → exec .encDev s = .next u →
      a = f * (8 + u.res.r3.toNat) * 2 ^ u.res.r2.toNat →
      2 * a ≤ 2 * (t * 2 ^ 17) + f * 2 ^ u.res.r2.toNat ∧ 2 * (t * 2 ^ 17) ≤ 2 * a + f * 2 ^ u.res.r2.toNat)

/-- R244: ENC_DRATE and ENC_BW share `MDMCFG4` and each preserves the other's bits, so in either order they leave the
same radio contents. -/
def Obligations.BandwidthAndDataRateCommute : Prop :=
  ∀ (s t u v w : State) (rate : BitVec 32), s.cfg.AddressesDistinct → Memory.wf s.radio.mem = true →
    exec .encBw s = .next t → exec .encDrate { t with opnd := { t.opnd with arg0 := rate } } = .next u →
    exec .encDrate { s with opnd := { s.opnd with arg0 := rate } } = .next v →
    exec .encBw { v with opnd := { v.opnd with arg0 := s.opnd.arg0 } } = .next w → u.radio = w.radio

/-! Rules over all commands and all words. -/

/-- R286: a successful command writes in `WARN` exactly the flags whose condition held. -/
def Obligations.WarnHoldsExactlyTheCommandsFlags : Prop :=
  ∀ (i : Instr) (s t : State) (dev : Nat), i.isWord = false → s.cfg.Valid → exec i s = .next t → t.err = 0 →
    dev = (if i = .encDev then s.opnd.arg0.toNat else t.rc.dev.toNat) →
    (t.warn.getLsbD 0 = true ↔ i ∈ timingCommands ∧ s.opnd.d0.toNat % 2 = 1) ∧
    (t.warn.getLsbD 1 = true ↔ i ∈ timingCommands ∧ s.opnd.d1.toNat % 2 = 1) ∧
    (t.warn.getLsbD 2 = true ↔ i ∈ timingCommands ∧ s.cfg.clockHz % s.opnd.baud.toNat ≠ 0) ∧
    (t.warn.getLsbD 3 = true ↔ i ∈ [Instr.synth, .rcfg, .encDev] ∧ s.cfg.devCeilA < dev) ∧
    (t.warn.getLsbD 4 = true ↔ i ∈ [Instr.synth, .rcfg, .encDev] ∧ s.cfg.devCeilB < dev) ∧
    (t.warn.getLsbD 5 = true ↔ i ∈ [Instr.synth, .rcfg] ∧ s.opnd.d0.toNat < s.opnd.d1.toNat) ∧
    (t.warn.getLsbD 6 = true ↔ quantized i s.cfg.fRef s.opnd.arg0.toNat t.res.r2.toNat t.res.r3.toNat)

/-- R281 to R283: a command that ends in a hard error changes `ERR` and `WARN` only, with `WARN` 0; `ERR_CAPACITY` comes
from SYNTH alone and `ERR_PARAM` from PLAN, SYNTH and RCFG alone. -/
def Obligations.HardErrorsArePreciseAndListed : Prop :=
  ∀ (i : Instr) (s t : State), i.isWord = false → exec i s = .next t → t.err ≠ 0 →
    t = { s with err := t.err, warn := 0 } ∧ ((t.err = 1 ∧ i = .synth) ∨ (t.err = 2 ∧ i ∈ timingCommands))

/-- R24 to R27, R35, R41: every command goes on from every state, and leaves the operand registers, `CMD`, the sequencer
and what the host has in hand as they are. -/
def Obligations.CommandsKeepOperandsAndSequencer : Prop :=
  ∀ (i : Instr) (s : State), i.isWord = false →
    ∃ t, exec i s = .next t ∧ t.opnd = s.opnd ∧ t.cmd = s.cmd ∧ t.seq = s.seq ∧ t.cfg = s.cfg ∧ t.script = s.script ∧
      t.rdata = s.rdata

/-- R41, R78: every word of the sequencer goes on from every state and changes the sequencer alone, and of it neither
the instruction store nor its configuration: no register of the block, no radio register. -/
def Obligations.WordsChangeTheSequencerOnly : Prop :=
  ∀ (i : Instr) (s : State), i.isWord = true →
    ∃ t, exec i s = .next t ∧ t = { s with seq := t.seq } ∧ t.seq.imem = s.seq.imem ∧ t.seq.ss = s.seq.ss ∧
      t.seq.wrapStart = s.seq.wrapStart ∧ t.seq.wrapEnd = s.seq.wrapEnd ∧ t.seq.running = s.seq.running

/-- R32, R23: a step changes the program buffer, `PROG_INFO` or `PROG_VALID` only by a successful SYNTH or by reset. -/
def Obligations.OnlySynthReplacesTheProgram : Prop :=
  ∀ s t : State, step s = .next t →
    (t.prog = s.prog ∧ t.progValid = s.progValid) ∨ (∃ rest, s.script = .reset :: rest) ∨
    ∃ v rest, s.script = .write 0 v :: rest ∧ v.setWidth 8 = (0x02 : BitVec 8) ∧ t.err = 0 ∧ t.progValid = true

/-- R66, R74: the block makes radio transactions in an ENC command and at no other time, and outside one the radio
changes only by the platform's own hand (its actions are the model's, log 16). -/
def Obligations.OnlyEncCommandsUseTheRadioPort : Prop :=
  ∀ s t : State, step s = .next t →
    (∃ v rest, s.script = .write 0 v :: rest ∧ v.setWidth 8 ∈ [(0x10 : BitVec 8), 0x11, 0x12, 0x13]) ∨
    (t.trace = s.trace ∧
      (t.radio = s.radio ∨ (∃ a v rest, s.script = .radioPreset a v :: rest) ∨ ∃ rest, s.script = .radioResume :: rest))

/-- The model arguments never change (R8, R11; that they stand in State is the model's choice, log 1). -/
def Obligations.EveryStepKeepsTheParameters : Prop := ∀ s t : State, step s = .next t → t.cfg = s.cfg

/-! The sequencer's words. -/

/-- R183, R186 to R188: an `OUT` word whose data is available takes its bits, refilling first when `OSR` is empty:
`null` discards them, `y` gets all 32, `x` gets one bit, from the end `SHIFT_DIR` says. (Taking 32 bits from an `OSR`
already begun leaves in `OSRCNT` a free value, whatever it is, and counts it: log 8. `pc` during the delay: log 6. A
`dss` the block never emits: log 18.) The side-set, delay and next index are those of R184, R182 and R185. -/
def Obligations.OutWordsTakeStreamBits : Prop :=
  ∀ (s : State) (dss : BitVec 5) (o : BitVec 32) (c : Nat) (fifo : List (BitVec 32)) (next : BitVec 5),
    (s.seq.osrcnt ≠ 32 ∨ s.seq.fifo ≠ []) → (o, c, fifo) = pulled s.seq → next = nextIndex s.seq →
    exec (.outNull dss) s = .next { s with seq := afterWord dss next { s.seq with
      osr := 0, osrcnt := countAfter32 c s.seq, draws := drawsAfter32 c s.seq, fifo := fifo } } ∧
    exec (.outY dss) s = .next { s with seq := afterWord dss next { s.seq with
      y := o, osr := 0, osrcnt := countAfter32 c s.seq, draws := drawsAfter32 c s.seq, fifo := fifo } } ∧
    (s.cfg.shiftDir = .right → exec (.outX dss) s = .next { s with seq := afterWord dss next { s.seq with
      x := BitVec.ofNat 32 (o.toNat % 2), osr := BitVec.ofNat 32 (o.toNat / 2), osrcnt := Fin.ofNat 33 (c + 1)
      fifo := fifo } }) ∧
    (s.cfg.shiftDir = .left → exec (.outX dss) s = .next { s with seq := afterWord dss next { s.seq with
      x := BitVec.ofNat 32 (o.toNat / 2 ^ 31), osr := BitVec.ofNat 32 (2 * o.toNat), osrcnt := Fin.ofNat 33 (c + 1)
      fifo := fifo } })

/-- R182, R183: an `OUT` word with `OSR` and the FIFO empty stalls: its cycle changes nothing. (That the second pin too
stays as it is while a word with `SE = 1` stalls is the model's reading, log 7; such a word is never emitted, log 18.) -/
def Obligations.OutWordsStallOnAnEmptyStream : Prop :=
  ∀ (i : Instr) (s : State) (dss : BitVec 5), i ∈ [Instr.outNull dss, .outY dss, .outX dss] → s.seq.osrcnt = 32 →
    s.seq.fifo = [] → exec i s = .next s

/-- R189, R194, R195: the three jumps: their target when taken, the next index when not; `jmp y--` is decided on the old
`Y` and decrements it either way; nothing else changes but the word's side-set and delay. (`pc` during the delay: log 6. A `dss`
the block never emits: log 18.) -/
def Obligations.JumpWordsResultAndFrame : Prop :=
  ∀ (s : State) (dss t : BitVec 5),
    exec (.jmp dss t) s = .next { s with seq := afterWord dss t s.seq } ∧
    exec (.jmpNotX dss t) s =
      .next { s with seq := afterWord dss (if s.seq.x.toNat = 0 then t else nextIndex s.seq) s.seq } ∧
    exec (.jmpYDec dss t) s = .next { s with
      seq := afterWord dss (if s.seq.y.toNat = 0 then nextIndex s.seq else t)
        { s.seq with y := BitVec.ofNat 32 ((s.seq.y.toNat + (2 ^ 32 - 1)) % 2 ^ 32) } }

/-- R190 to R193: `set y` loads the immediate, `set pins` drives the primary pin, `nop` does nothing; each goes to the
next index with its side-set and delay, and nothing else changes. (`pc` during the delay: log 6. A `dss` the block never
emits: log 18.) -/
def Obligations.SetAndNopWordsResultAndFrame : Prop :=
  ∀ (s : State) (dss n next : BitVec 5), next = nextIndex s.seq →
    exec (.setY dss n) s = .next { s with seq := afterWord dss next { s.seq with y := BitVec.ofNat 32 n.toNat } } ∧
    exec (.setPins1 dss) s = .next { s with seq := afterWord dss next { s.seq with p1 := true } } ∧
    exec (.setPins0 dss) s = .next { s with seq := afterWord dss next { s.seq with p1 := false } } ∧
    exec (.nop dss) s = .next { s with seq := afterWord dss next s.seq }

/-- R107: a running sequencer refuses, by name, a word at `pc` that matches no row of the table, when no action is
pending and when the next action is its cycle (log 2). -/
def Obligations.ForeignWordsAreRefused : Prop :=
  ∀ s : State, (s.script = [] ∨ ∃ rest, s.script = .cycle :: rest) → s.seq.running = true → s.seq.dly = 0 →
    (∀ r ∈ seqRows, seqWord s.seq &&& r.2 ≠ r.1) → step s = .refused (.wordOutsideContract (seqWord s.seq))

/-! What the host does with a program. -/

/-- R315: installing the committed program, as the contract asks, copies its `LEN` words to the instruction store from 0
and sets side-set and the wrap bounds; the stream, the pins and the block are as before. (That the words of the store at
and above `LEN` are as before, and that the action sets `pc` to 0 with no delay, are the model's choices, log 10.) -/
def Obligations.InstallCopiesTheCommittedProgram : Prop :=
  ∀ (s : State) (rest : List Action), s.seq.running = false → s.progValid = true →
    s.script = .install s.progTwoAnt 0 (s.prog.wrapStart.setWidth 5) (s.prog.wrapEnd.setWidth 5) :: rest →
    ∃ t, step s = .next t ∧
      (∀ i : Fin 32, t.seq.imem[i.val] =
        if i.val < s.prog.len.toNat then s.prog.words[i.val] else s.seq.imem[i.val]) ∧
      t = { s with script := rest, seq := { s.seq with
        imem := t.seq.imem, ss := s.progTwoAnt, wrapStart := s.prog.wrapStart.setWidth 5
        wrapEnd := s.prog.wrapEnd.setWidth 5, pc := 0, npc := 0, dly := 0 } }

/-- R315, R316, R320: an install is refused, by name, while the sequencer runs, without a committed program, and with
another mode, origin or wrap bounds than the program's (the refusals' names are the model's, log 10). -/
def Obligations.InstallOutsideTheContractIsRefused : Prop :=
  ∀ (s : State) (two : Bool) (o ws we : BitVec 5) (rest : List Action), s.script = .install two o ws we :: rest →
    (s.seq.running = true → step s = .refused .installWhileRunning) ∧
    (s.seq.running = false → s.progValid = false → step s = .refused .installWithoutProgram) ∧
    (s.seq.running = false → s.progValid = true →
      two ≠ s.progTwoAnt ∨ o ≠ 0 ∨ ws ≠ s.prog.wrapStart.setWidth 5 ∨ we ≠ s.prog.wrapEnd.setWidth 5 →
      step s = .refused .installOutsideContract)

/-- R181, R183, R197: the host's push puts a word at the stream's end; its start sets the start state of R181, with the
working registers and pins as the host left them; its stop stops the sequencer; a stopped sequencer's cycle changes
nothing, be it the next action or the step of a machine with none pending. (The model's choices: that a push always
fits, log 9; that start keeps the FIFO and `OSR`, and stop all but `running`, log 19; that start asks for no installed
program, log 23; that a machine with nothing to do stays as it is, log 2.) -/
def Obligations.HostActionsOnTheSequencer : Prop :=
  ∀ (s : State) (rest : List Action),
    (∀ w, s.script = .push w :: rest →
      step s = .next { s with script := rest, seq := { s.seq with fifo := s.seq.fifo ++ [w] } }) ∧
    (∀ x y p1 p2, s.script = .start x y p1 p2 :: rest → step s = .next { s with script := rest, seq := { s.seq with
      pc := 0, npc := 0, osrcnt := 32, dly := 0, x := x, y := y, p1 := p1, p2 := p2, running := true } }) ∧
    (s.script = .stop :: rest → step s = .next { s with script := rest, seq := { s.seq with running := false } }) ∧
    (s.seq.running = false → s.script = .cycle :: rest → step s = .next { s with script := rest }) ∧
    (s.seq.running = false → s.script = [] → step s = .next s)

/-- R67, R68, R317, R325: the platform's load of a radio register puts its value at that address, where it reads back, and
leaves every other register, the mode and the block as they are; taking the radio out of idle changes its mode alone.
(The model's choices: that these are actions of one step each, with no entry in the block's trace, log 16; that an
address other than the nine of R64, to which R67 speaks, is plain storage too, log 20.) -/
def Obligations.PlatformActionsOnTheRadio : Prop :=
  ∀ (s : State) (rest : List Action),
    (∀ a v, Memory.wf s.radio.mem = true → s.script = .radioPreset a v :: rest →
      ∃ t, step s = .next t ∧ t = { s with script := rest, radio := { s.radio with mem := t.radio.mem } } ∧
        Memory.wf t.radio.mem = true ∧ radioValue a t = v ∧ othersKept [a] s t) ∧
    (s.script = .radioResume :: rest →
      step s = .next { s with script := rest, radio := { s.radio with mode := .other } })

/-! Invariants. -/

/-- Every step keeps the radio's register space in canonical form, and `STATUS.ERR` among the codes of R281: codes 4
to 15 are never produced. -/
def Obligations.EveryStepKeepsMemoryCanonicalAndErrListed : Prop :=
  ∀ s t : State, PortInv s → step s = .next t → PortInv t

/-- R33: every step keeps the program registers either at their reset values or holding a good program: 6 to 32 legal
words for its mode, targets inside, `jmp 2` last, zeros beyond, wrap bounds 0 and `LEN − 1`. -/
def Obligations.EveryStepKeepsTheCommittedProgramGood : Prop :=
  ∀ s t : State, ProgramInv s → step s = .next t → ProgramInv t

/-- R185: every step keeps the sequencer inside its program: `pc` never leaves the words 0 to `WRAP_END`, all of them
legal, whatever the host does, including the install of a new program. -/
def Obligations.EveryStepKeepsTheSequencerInItsProgram : Prop :=
  ∀ s t : State, ProgramInv s → SeqInv s.seq → step s = .next t → SeqInv t.seq

/-- R280, R297: with the sequencer inside its program, every step whose action is not an install goes on: no fault, no
refusal. -/
def Obligations.EveryStepGoesOnInsideTheInvariant : Prop :=
  ∀ s : State, SeqInv s.seq → (∀ two o ws we rest, s.script ≠ .install two o ws we :: rest) → ∃ t, step s = .next t
end

