-- ==== Sys2Proof/Laws/Arith.lean ====
section
/-! SUPPORT. The arithmetic of R14 and R16: what each function can be relied on for. -/

namespace Sys2Proof.Machine

@[simp] theorem ic_zero (cap : Nat) : ic 0 cap = 0 := by simp [ic]

/-- `IC(v, cap) = ceil(v / cap)` (R16). -/
theorem ic_eq_ceil {v cap : Nat} (h : 0 < cap) : ic v cap = (v + cap - 1) / cap := by
  unfold ic
  have hd := Nat.div_add_mod v cap
  have hl := Nat.mod_lt v h
  split
  · next hm =>
    rw [show v + cap - 1 = cap * (v / cap) + (cap - 1) by omega, Nat.mul_add_div h,
      Nat.div_eq_of_lt (show cap - 1 < cap by omega), Nat.add_zero]
  · next hm =>
    rw [show v + cap - 1 = cap * (v / cap + 1) + (v % cap - 1) by rw [Nat.mul_add]; omega, Nat.mul_add_div h,
      Nat.div_eq_of_lt (show v % cap - 1 < cap by omega), Nat.add_zero]

/-- One more word than the rest of the delay needs (R143). -/
theorem ic_step {v cap : Nat} (h : 0 < cap) (hv : 0 < v) : ic v cap = ic (v - min cap v) cap + 1 := by
  rw [ic_eq_ceil h, ic_eq_ceil h]
  rcases Nat.le_total cap v with hc | hc
  · rw [Nat.min_eq_left hc, show v + cap - 1 = (v - cap + cap - 1) + cap by omega, Nat.add_div_right _ h]
  · rw [Nat.min_eq_right hc, Nat.sub_self, Nat.div_eq_of_lt (by omega : 0 + cap - 1 < cap),
      show v + cap - 1 = (v - 1) + cap by omega, Nat.add_div_right _ h, Nat.div_eq_of_lt (by omega)]

/-- `largestExp` is a candidate, or 0. -/
theorem largestExp_holds (p : Nat → Bool) : ∀ n, p (largestExp p n) = true ∨ largestExp p n = 0
  | 0 => .inr rfl
  | n + 1 => by
    unfold largestExp
    split
    · next h => exact .inl h
    · exact largestExp_holds p n

theorem largestExp_le (p : Nat → Bool) : ∀ n, largestExp p n ≤ n
  | 0 => Nat.le_refl 0
  | n + 1 => by
    unfold largestExp
    split
    · exact Nat.le_refl _
    · exact Nat.le_succ_of_le (largestExp_le p n)

/-- Nothing above `largestExp` is a candidate. -/
theorem largestExp_greatest (p : Nat → Bool) : ∀ {n e : Nat}, largestExp p n < e → e ≤ n → p e = false
  | 0, e, h, he => by simp [largestExp] at h; omega
  | n + 1, e, h, he => by
    unfold largestExp at h
    split at h
    · omega
    · next hp =>
      rcases Nat.lt_or_ge n e with hn | hn
      · have : e = n + 1 := by omega
        subst this
        simpa using hp
      · exact largestExp_greatest p h hn

theorem sat32_toNat (v : Nat) : (sat32 v).toNat = min v (2 ^ 32 - 1) := by
  unfold sat32
  rw [BitVec.toNat_ofNat, Nat.mod_eq_of_lt (by omega)]

end Sys2Proof.Machine
end

