-- ==== Sys2Proof/Laws/Codec.lean ====
section
/-! SUPPORT. The conversions' arithmetic (R229, R233, R237, R241) and the warning bits: what each can be relied on for. -/

namespace Sys2Proof.Machine

/-- `round(a / b)` is within a half of `a / b` (R14). -/
theorem roundDiv_bounds (a : Nat) {b : Nat} (h : 0 < b) :
    2 * b * roundDiv a b ≤ 2 * a + b ∧ 2 * a + b < 2 * b * roundDiv a b + 2 * b := by
  unfold roundDiv
  exact ⟨Nat.mul_div_le _ _, Nat.lt_mul_div_succ _ (by omega)⟩

/-- The fields settle inside their widths (R233, R237). -/
theorem settleMantissa_le {rounded top mMax eMax e : Nat} (h : e ≤ eMax) :
    (settleMantissa rounded top mMax eMax e).1 ≤ eMax ∧ (settleMantissa rounded top mMax eMax e).2 ≤ mMax := by
  unfold settleMantissa
  split
  · exact ⟨h, Nat.zero_le _⟩
  · split
    · split
      · exact ⟨by simpa using by omega, Nat.zero_le _⟩
      · exact ⟨h, Nat.le_refl _⟩
    · exact ⟨h, by simpa using by omega⟩

theorem drateFields_le (f r : Nat) : (drateFields f r).1 ≤ 15 ∧ (drateFields f r).2 ≤ 255 :=
  settleMantissa_le (largestExp_le _ _)

theorem devFields_le (f d : Nat) : (devFields f d).1 ≤ 7 ∧ (devFields f d).2 ≤ 7 := settleMantissa_le (largestExp_le _ _)

/-- `0 ≤ M ≤ 3`, `0 ≤ FREQ < 2^24` (R229). -/
theorem freqFields_lt (f t : Nat) : (freqFields f t).1 < 2 ^ 24 ∧ (freqFields f t).2 < 4 := by
  have h : freqQuarters f t ≤ 4 * (2 ^ 24 + 63) + 3 := Nat.min_le_right _ _
  unfold freqFields
  dsimp only
  split
  · exact ⟨by decide, by decide⟩
  · exact ⟨by dsimp only; omega, Nat.mod_lt _ (by decide)⟩

/-- Above the low saturation the fields hold exactly `N4` quarter steps (R229). -/
theorem freqFields_quarters {f t : Nat} (h : 256 ≤ freqQuarters f t) :
    4 * (freqFields f t).1 + 256 + (freqFields f t).2 = freqQuarters f t := by
  unfold freqFields
  dsimp only
  rw [if_neg (by omega)]
  dsimp only
  omega

theorem bwFields_mem (f b : Nat) : bwFields f b ∈ bwCandidates := by
  unfold bwFields
  cases h : bwCandidates.find? fun q => decide (b * 8 * (4 + q.2) * 2 ^ q.1 ≤ f) with
  | none => decide
  | some q => exact List.mem_of_find?_eq_some h

theorem bwFields_le (f b : Nat) : (bwFields f b).1 ≤ 3 ∧ (bwFields f b).2 ≤ 3 :=
  (by decide : ∀ q ∈ bwCandidates, q.1 ≤ 3 ∧ q.2 ≤ 3) _ (bwFields_mem f b)

/-- A flag's bit, alone. -/
theorem flagBit_getLsbD {k : Nat} (hk : k < 7) (b : Bool) (j : Nat) :
    (flagBit k b).getLsbD j = (b && decide (j = k)) := by
  cases b
  · simp [flagBit]
  · rcases Nat.lt_or_ge j 7 with hj | hj
    · have h : ∀ k < 7, ∀ j < 7, (flagBit k true).getLsbD j = (true && decide (j = k)) := by decide
      exact h k hk j hj
    · rw [BitVec.getLsbD_of_ge _ _ hj, Bool.true_and, eq_comm, decide_eq_false_iff_not]
      omega

theorem eqNat_iff (v : Frac) (n : Nat) : v.eqNat n = true ↔ v.num = n * v.den := by simp [Frac.eqNat]

end Sys2Proof.Machine
end

