-- ==== Sys2Proof/Laws/Memory.lean ====
section
/-! SUPPORT. The radio's register space: read after write, and the canonical form kept by every operation. -/

namespace Sys2Proof.Machine

@[simp] theorem memRead_nil (a : Nat) : memRead [] a = radioUnlisted a := rfl

theorem memRead_cons (k : Nat) (v : BitVec 8) (m : List Host.Cell) (a : Nat) :
    memRead ((k, v) :: m) a = if k = a then v else memRead m a := rfl

theorem memWfFrom_cons (lo k : Nat) (v : BitVec 8) (m : List Host.Cell) :
    memWfFrom lo ((k, v) :: m) = true ↔ lo ≤ k ∧ k < 256 ∧ v ≠ radioUnlisted k ∧ memWfFrom (k + 1) m = true := by
  simp [memWfFrom, and_assoc]

/-- A canonical list may start lower. -/
theorem memWfFrom_mono {lo lo' : Nat} (h : lo' ≤ lo) : ∀ {m : List Host.Cell}, memWfFrom lo m = true → memWfFrom lo' m = true
  | [], _ => rfl
  | (k, v) :: m, hm => by
    rw [memWfFrom_cons] at hm ⊢
    exact ⟨le_trans h hm.1, hm.2⟩

/-- An address below every listed one is unlisted. -/
theorem memRead_below : ∀ {lo : Nat} {m : List Host.Cell} {a : Nat}, memWfFrom lo m = true → a < lo → memRead m a = radioUnlisted a
  | _, [], _, _, _ => rfl
  | lo, (k, v) :: m, a, hm, ha => by
    rw [memWfFrom_cons] at hm
    rw [memRead_cons, if_neg (by omega)]
    exact memRead_below hm.2.2.2 (by omega)

/-- A write leaves every other address alone. -/
theorem memRead_memWrite_other {a b : Nat} (hab : a ≠ b) (v : BitVec 8) :
    ∀ m : List Host.Cell, memRead (memWrite m a v) b = memRead m b
  | [] => by
    unfold memWrite
    split <;> simp [memRead_cons, hab]
  | (k, w) :: m => by
    have ih := memRead_memWrite_other hab v m
    unfold memWrite
    split
    · split <;> simp [memRead_cons, hab]
    · split
      · next h => subst h; split <;> simp [memRead_cons, hab]
      · simp [memRead_cons, ih]

/-- A read after a write to the same address gives the value written. -/
theorem memRead_memWrite_same (a : Nat) (v : BitVec 8) :
    ∀ {lo : Nat} {m : List Host.Cell}, memWfFrom lo m = true → memRead (memWrite m a v) a = v
  | _, [], _ => by
    unfold memWrite
    split
    · next h => exact h.symm
    · simp [memRead_cons]
  | lo, (k, w) :: m, hm => by
    rw [memWfFrom_cons] at hm
    unfold memWrite
    split
    · split
      · next h => rw [memRead_cons, if_neg (by omega), memRead_below hm.2.2.2 (by omega), ← h]
      · simp [memRead_cons]
    · split
      · next h =>
        subst h
        split
        · next h => rw [memRead_below hm.2.2.2 (by omega), ← h]
        · simp [memRead_cons]
      · next h =>
        rw [memRead_cons, if_neg (fun e => h e.symm)]
        exact memRead_memWrite_same a v hm.2.2.2

theorem memWrite_wfFrom (a : Nat) (v : BitVec 8) (ha : a < 256) :
    ∀ {lo : Nat} {m : List Host.Cell}, lo ≤ a → memWfFrom lo m = true → memWfFrom lo (memWrite m a v) = true
  | lo, [], hlo, _ => by
    unfold memWrite
    split
    · rfl
    · next h => exact (memWfFrom_cons ..).2 ⟨hlo, ha, h, rfl⟩
  | lo, (k, w) :: m, hlo, hm => by
    have hm' := (memWfFrom_cons ..).1 hm
    unfold memWrite
    split
    · next hk =>
      split
      · exact hm
      · next h => exact (memWfFrom_cons ..).2 ⟨hlo, ha, h, (memWfFrom_cons ..).2 ⟨hk, hm'.2⟩⟩
    · split
      · next hk =>
        subst hk
        split
        · exact memWfFrom_mono (by omega) hm'.2.2.2
        · next h => exact (memWfFrom_cons ..).2 ⟨hlo, ha, h, hm'.2.2.2⟩
      · next h1 h2 =>
        exact (memWfFrom_cons ..).2 ⟨hm'.1, hm'.2.1, hm'.2.2.1, memWrite_wfFrom a v ha (by omega) hm'.2.2.2⟩

/-- Every write keeps the canonical form. -/
theorem memWrite_wf {m : List Host.Cell} (a v : BitVec 8) (hm : Memory.wf m = true) :
    Memory.wf (memWrite m a.toNat v) = true :=
  memWrite_wfFrom a.toNat v a.isLt (Nat.zero_le _) hm

/-- The memory at reset has the canonical form. -/
theorem reset_mem_wf : Memory.wf State.reset.radio.mem = true := rfl

/-- Canonical memories that read alike are equal. -/
theorem memWfFrom_ext : ∀ {lo : Nat} {m n : List Host.Cell}, memWfFrom lo m = true → memWfFrom lo n = true →
    (∀ a, memRead m a = memRead n a) → m = n
  | _, [], [], _, _, _ => rfl
  | _, [], (k, v) :: n, _, hn, h => by
    rw [memWfFrom_cons] at hn
    have := h k
    simp [memRead_cons] at this
    exact absurd this.symm hn.2.2.1
  | _, (k, v) :: m, [], hm, _, h => by
    rw [memWfFrom_cons] at hm
    have := h k
    simp [memRead_cons] at this
    exact absurd this hm.2.2.1
  | _, (k, v) :: m, (j, w) :: n, hm, hn, h => by
    rw [memWfFrom_cons] at hm hn
    rcases Nat.lt_trichotomy k j with hkj | rfl | hkj
    · have := h k
      rw [memRead_cons, if_pos rfl, memRead_cons, if_neg (by omega), memRead_below hn.2.2.2 (by omega)] at this
      exact absurd this hm.2.2.1
    · have hv := h k
      rw [memRead_cons, if_pos rfl, memRead_cons, if_pos rfl] at hv
      subst hv
      rw [memWfFrom_ext hm.2.2.2 hn.2.2.2 fun a => ?_]
      have ha := h a
      rw [memRead_cons, memRead_cons] at ha
      split at ha
      · next e => subst e; rw [memRead_below hm.2.2.2 (by omega), memRead_below hn.2.2.2 (by omega)]
      · exact ha
    · have := h j
      rw [memRead_cons, if_neg (by omega), memRead_cons, if_pos rfl, memRead_below hm.2.2.2 (by omega)] at this
      exact absurd this.symm hn.2.2.1

/-- Canonical register spaces that read alike are equal data. -/
theorem memory_ext {m n : List Host.Cell} (hm : Memory.wf m = true) (hn : Memory.wf n = true)
    (h : ∀ a, memRead m a = memRead n a) : m = n := memWfFrom_ext hm hn h

end Sys2Proof.Machine
end

