-- ==== Sys2Proof/Laws/State.lean ====
section
/-! SUPPORT. One lemma per field per update of State, so that no proof unfolds a record update. -/

namespace Sys2Proof.Machine

variable (s : State)

@[simp] theorem State.setCmd_cfg (c : BitVec 8) : (s.setCmd c).cfg = s.cfg := rfl
@[simp] theorem State.setCmd_cmd (c : BitVec 8) : (s.setCmd c).cmd = c := rfl
@[simp] theorem State.setCmd_err (c : BitVec 8) : (s.setCmd c).err = s.err := rfl
@[simp] theorem State.setCmd_progValid (c : BitVec 8) : (s.setCmd c).progValid = s.progValid := rfl
@[simp] theorem State.setCmd_warn (c : BitVec 8) : (s.setCmd c).warn = s.warn := rfl
@[simp] theorem State.setCmd_opnd (c : BitVec 8) : (s.setCmd c).opnd = s.opnd := rfl
@[simp] theorem State.setCmd_res (c : BitVec 8) : (s.setCmd c).res = s.res := rfl
@[simp] theorem State.setCmd_plan (c : BitVec 8) : (s.setCmd c).plan = s.plan := rfl
@[simp] theorem State.setCmd_rc (c : BitVec 8) : (s.setCmd c).rc = s.rc := rfl
@[simp] theorem State.setCmd_prog (c : BitVec 8) : (s.setCmd c).prog = s.prog := rfl
@[simp] theorem State.setCmd_progTwoAnt (c : BitVec 8) : (s.setCmd c).progTwoAnt = s.progTwoAnt := rfl
@[simp] theorem State.setCmd_radio (c : BitVec 8) : (s.setCmd c).radio = s.radio := rfl
@[simp] theorem State.setCmd_trace (c : BitVec 8) : (s.setCmd c).trace = s.trace := rfl
@[simp] theorem State.setCmd_seq (c : BitVec 8) : (s.setCmd c).seq = s.seq := rfl
@[simp] theorem State.setCmd_script (c : BitVec 8) : (s.setCmd c).script = s.script := rfl
@[simp] theorem State.setCmd_rdata (c : BitVec 8) : (s.setCmd c).rdata = s.rdata := rfl

@[simp] theorem State.setOutcome_cfg (e : BitVec 4) (w : BitVec 7) : (s.setOutcome e w).cfg = s.cfg := rfl
@[simp] theorem State.setOutcome_cmd (e : BitVec 4) (w : BitVec 7) : (s.setOutcome e w).cmd = s.cmd := rfl
@[simp] theorem State.setOutcome_err (e : BitVec 4) (w : BitVec 7) : (s.setOutcome e w).err = e := rfl
@[simp] theorem State.setOutcome_progValid (e : BitVec 4) (w : BitVec 7) : (s.setOutcome e w).progValid = s.progValid := rfl
@[simp] theorem State.setOutcome_warn (e : BitVec 4) (w : BitVec 7) : (s.setOutcome e w).warn = w := rfl
@[simp] theorem State.setOutcome_opnd (e : BitVec 4) (w : BitVec 7) : (s.setOutcome e w).opnd = s.opnd := rfl
@[simp] theorem State.setOutcome_res (e : BitVec 4) (w : BitVec 7) : (s.setOutcome e w).res = s.res := rfl
@[simp] theorem State.setOutcome_plan (e : BitVec 4) (w : BitVec 7) : (s.setOutcome e w).plan = s.plan := rfl
@[simp] theorem State.setOutcome_rc (e : BitVec 4) (w : BitVec 7) : (s.setOutcome e w).rc = s.rc := rfl
@[simp] theorem State.setOutcome_prog (e : BitVec 4) (w : BitVec 7) : (s.setOutcome e w).prog = s.prog := rfl
@[simp] theorem State.setOutcome_progTwoAnt (e : BitVec 4) (w : BitVec 7) : (s.setOutcome e w).progTwoAnt = s.progTwoAnt := rfl
@[simp] theorem State.setOutcome_radio (e : BitVec 4) (w : BitVec 7) : (s.setOutcome e w).radio = s.radio := rfl
@[simp] theorem State.setOutcome_trace (e : BitVec 4) (w : BitVec 7) : (s.setOutcome e w).trace = s.trace := rfl
@[simp] theorem State.setOutcome_seq (e : BitVec 4) (w : BitVec 7) : (s.setOutcome e w).seq = s.seq := rfl
@[simp] theorem State.setOutcome_script (e : BitVec 4) (w : BitVec 7) : (s.setOutcome e w).script = s.script := rfl
@[simp] theorem State.setOutcome_rdata (e : BitVec 4) (w : BitVec 7) : (s.setOutcome e w).rdata = s.rdata := rfl

@[simp] theorem State.setOpnd_cfg (o : OperandRegs) : (s.setOpnd o).cfg = s.cfg := rfl
@[simp] theorem State.setOpnd_cmd (o : OperandRegs) : (s.setOpnd o).cmd = s.cmd := rfl
@[simp] theorem State.setOpnd_err (o : OperandRegs) : (s.setOpnd o).err = s.err := rfl
@[simp] theorem State.setOpnd_progValid (o : OperandRegs) : (s.setOpnd o).progValid = s.progValid := rfl
@[simp] theorem State.setOpnd_warn (o : OperandRegs) : (s.setOpnd o).warn = s.warn := rfl
@[simp] theorem State.setOpnd_opnd (o : OperandRegs) : (s.setOpnd o).opnd = o := rfl
@[simp] theorem State.setOpnd_res (o : OperandRegs) : (s.setOpnd o).res = s.res := rfl
@[simp] theorem State.setOpnd_plan (o : OperandRegs) : (s.setOpnd o).plan = s.plan := rfl
@[simp] theorem State.setOpnd_rc (o : OperandRegs) : (s.setOpnd o).rc = s.rc := rfl
@[simp] theorem State.setOpnd_prog (o : OperandRegs) : (s.setOpnd o).prog = s.prog := rfl
@[simp] theorem State.setOpnd_progTwoAnt (o : OperandRegs) : (s.setOpnd o).progTwoAnt = s.progTwoAnt := rfl
@[simp] theorem State.setOpnd_radio (o : OperandRegs) : (s.setOpnd o).radio = s.radio := rfl
@[simp] theorem State.setOpnd_trace (o : OperandRegs) : (s.setOpnd o).trace = s.trace := rfl
@[simp] theorem State.setOpnd_seq (o : OperandRegs) : (s.setOpnd o).seq = s.seq := rfl
@[simp] theorem State.setOpnd_script (o : OperandRegs) : (s.setOpnd o).script = s.script := rfl
@[simp] theorem State.setOpnd_rdata (o : OperandRegs) : (s.setOpnd o).rdata = s.rdata := rfl

@[simp] theorem State.setRes_cfg (r : ResultRegs) : (s.setRes r).cfg = s.cfg := rfl
@[simp] theorem State.setRes_cmd (r : ResultRegs) : (s.setRes r).cmd = s.cmd := rfl
@[simp] theorem State.setRes_err (r : ResultRegs) : (s.setRes r).err = s.err := rfl
@[simp] theorem State.setRes_progValid (r : ResultRegs) : (s.setRes r).progValid = s.progValid := rfl
@[simp] theorem State.setRes_warn (r : ResultRegs) : (s.setRes r).warn = s.warn := rfl
@[simp] theorem State.setRes_opnd (r : ResultRegs) : (s.setRes r).opnd = s.opnd := rfl
@[simp] theorem State.setRes_res (r : ResultRegs) : (s.setRes r).res = r := rfl
@[simp] theorem State.setRes_plan (r : ResultRegs) : (s.setRes r).plan = s.plan := rfl
@[simp] theorem State.setRes_rc (r : ResultRegs) : (s.setRes r).rc = s.rc := rfl
@[simp] theorem State.setRes_prog (r : ResultRegs) : (s.setRes r).prog = s.prog := rfl
@[simp] theorem State.setRes_progTwoAnt (r : ResultRegs) : (s.setRes r).progTwoAnt = s.progTwoAnt := rfl
@[simp] theorem State.setRes_radio (r : ResultRegs) : (s.setRes r).radio = s.radio := rfl
@[simp] theorem State.setRes_trace (r : ResultRegs) : (s.setRes r).trace = s.trace := rfl
@[simp] theorem State.setRes_seq (r : ResultRegs) : (s.setRes r).seq = s.seq := rfl
@[simp] theorem State.setRes_script (r : ResultRegs) : (s.setRes r).script = s.script := rfl
@[simp] theorem State.setRes_rdata (r : ResultRegs) : (s.setRes r).rdata = s.rdata := rfl

@[simp] theorem State.setPlan_cfg (p : PlanRegs) : (s.setPlan p).cfg = s.cfg := rfl
@[simp] theorem State.setPlan_cmd (p : PlanRegs) : (s.setPlan p).cmd = s.cmd := rfl
@[simp] theorem State.setPlan_err (p : PlanRegs) : (s.setPlan p).err = s.err := rfl
@[simp] theorem State.setPlan_progValid (p : PlanRegs) : (s.setPlan p).progValid = s.progValid := rfl
@[simp] theorem State.setPlan_warn (p : PlanRegs) : (s.setPlan p).warn = s.warn := rfl
@[simp] theorem State.setPlan_opnd (p : PlanRegs) : (s.setPlan p).opnd = s.opnd := rfl
@[simp] theorem State.setPlan_res (p : PlanRegs) : (s.setPlan p).res = s.res := rfl
@[simp] theorem State.setPlan_plan (p : PlanRegs) : (s.setPlan p).plan = p := rfl
@[simp] theorem State.setPlan_rc (p : PlanRegs) : (s.setPlan p).rc = s.rc := rfl
@[simp] theorem State.setPlan_prog (p : PlanRegs) : (s.setPlan p).prog = s.prog := rfl
@[simp] theorem State.setPlan_progTwoAnt (p : PlanRegs) : (s.setPlan p).progTwoAnt = s.progTwoAnt := rfl
@[simp] theorem State.setPlan_radio (p : PlanRegs) : (s.setPlan p).radio = s.radio := rfl
@[simp] theorem State.setPlan_trace (p : PlanRegs) : (s.setPlan p).trace = s.trace := rfl
@[simp] theorem State.setPlan_seq (p : PlanRegs) : (s.setPlan p).seq = s.seq := rfl
@[simp] theorem State.setPlan_script (p : PlanRegs) : (s.setPlan p).script = s.script := rfl
@[simp] theorem State.setPlan_rdata (p : PlanRegs) : (s.setPlan p).rdata = s.rdata := rfl

@[simp] theorem State.setRc_cfg (r : RadioCfgRegs) : (s.setRc r).cfg = s.cfg := rfl
@[simp] theorem State.setRc_cmd (r : RadioCfgRegs) : (s.setRc r).cmd = s.cmd := rfl
@[simp] theorem State.setRc_err (r : RadioCfgRegs) : (s.setRc r).err = s.err := rfl
@[simp] theorem State.setRc_progValid (r : RadioCfgRegs) : (s.setRc r).progValid = s.progValid := rfl
@[simp] theorem State.setRc_warn (r : RadioCfgRegs) : (s.setRc r).warn = s.warn := rfl
@[simp] theorem State.setRc_opnd (r : RadioCfgRegs) : (s.setRc r).opnd = s.opnd := rfl
@[simp] theorem State.setRc_res (r : RadioCfgRegs) : (s.setRc r).res = s.res := rfl
@[simp] theorem State.setRc_plan (r : RadioCfgRegs) : (s.setRc r).plan = s.plan := rfl
@[simp] theorem State.setRc_rc (r : RadioCfgRegs) : (s.setRc r).rc = r := rfl
@[simp] theorem State.setRc_prog (r : RadioCfgRegs) : (s.setRc r).prog = s.prog := rfl
@[simp] theorem State.setRc_progTwoAnt (r : RadioCfgRegs) : (s.setRc r).progTwoAnt = s.progTwoAnt := rfl
@[simp] theorem State.setRc_radio (r : RadioCfgRegs) : (s.setRc r).radio = s.radio := rfl
@[simp] theorem State.setRc_trace (r : RadioCfgRegs) : (s.setRc r).trace = s.trace := rfl
@[simp] theorem State.setRc_seq (r : RadioCfgRegs) : (s.setRc r).seq = s.seq := rfl
@[simp] theorem State.setRc_script (r : RadioCfgRegs) : (s.setRc r).script = s.script := rfl
@[simp] theorem State.setRc_rdata (r : RadioCfgRegs) : (s.setRc r).rdata = s.rdata := rfl

@[simp] theorem State.setProg_cfg (p : ProgramRegs) (two : Bool) : (s.setProg p two).cfg = s.cfg := rfl
@[simp] theorem State.setProg_cmd (p : ProgramRegs) (two : Bool) : (s.setProg p two).cmd = s.cmd := rfl
@[simp] theorem State.setProg_err (p : ProgramRegs) (two : Bool) : (s.setProg p two).err = s.err := rfl
@[simp] theorem State.setProg_progValid (p : ProgramRegs) (two : Bool) : (s.setProg p two).progValid = true := rfl
@[simp] theorem State.setProg_warn (p : ProgramRegs) (two : Bool) : (s.setProg p two).warn = s.warn := rfl
@[simp] theorem State.setProg_opnd (p : ProgramRegs) (two : Bool) : (s.setProg p two).opnd = s.opnd := rfl
@[simp] theorem State.setProg_res (p : ProgramRegs) (two : Bool) : (s.setProg p two).res = s.res := rfl
@[simp] theorem State.setProg_plan (p : ProgramRegs) (two : Bool) : (s.setProg p two).plan = s.plan := rfl
@[simp] theorem State.setProg_rc (p : ProgramRegs) (two : Bool) : (s.setProg p two).rc = s.rc := rfl
@[simp] theorem State.setProg_prog (p : ProgramRegs) (two : Bool) : (s.setProg p two).prog = p := rfl
@[simp] theorem State.setProg_progTwoAnt (p : ProgramRegs) (two : Bool) : (s.setProg p two).progTwoAnt = two := rfl
@[simp] theorem State.setProg_radio (p : ProgramRegs) (two : Bool) : (s.setProg p two).radio = s.radio := rfl
@[simp] theorem State.setProg_trace (p : ProgramRegs) (two : Bool) : (s.setProg p two).trace = s.trace := rfl
@[simp] theorem State.setProg_seq (p : ProgramRegs) (two : Bool) : (s.setProg p two).seq = s.seq := rfl
@[simp] theorem State.setProg_script (p : ProgramRegs) (two : Bool) : (s.setProg p two).script = s.script := rfl
@[simp] theorem State.setProg_rdata (p : ProgramRegs) (two : Bool) : (s.setProg p two).rdata = s.rdata := rfl

@[simp] theorem State.transact_cfg (r : Radio) (t : RadioTxn) : (s.transact r t).cfg = s.cfg := rfl
@[simp] theorem State.transact_cmd (r : Radio) (t : RadioTxn) : (s.transact r t).cmd = s.cmd := rfl
@[simp] theorem State.transact_err (r : Radio) (t : RadioTxn) : (s.transact r t).err = s.err := rfl
@[simp] theorem State.transact_progValid (r : Radio) (t : RadioTxn) : (s.transact r t).progValid = s.progValid := rfl
@[simp] theorem State.transact_warn (r : Radio) (t : RadioTxn) : (s.transact r t).warn = s.warn := rfl
@[simp] theorem State.transact_opnd (r : Radio) (t : RadioTxn) : (s.transact r t).opnd = s.opnd := rfl
@[simp] theorem State.transact_res (r : Radio) (t : RadioTxn) : (s.transact r t).res = s.res := rfl
@[simp] theorem State.transact_plan (r : Radio) (t : RadioTxn) : (s.transact r t).plan = s.plan := rfl
@[simp] theorem State.transact_rc (r : Radio) (t : RadioTxn) : (s.transact r t).rc = s.rc := rfl
@[simp] theorem State.transact_prog (r : Radio) (t : RadioTxn) : (s.transact r t).prog = s.prog := rfl
@[simp] theorem State.transact_progTwoAnt (r : Radio) (t : RadioTxn) : (s.transact r t).progTwoAnt = s.progTwoAnt := rfl
@[simp] theorem State.transact_radio (r : Radio) (t : RadioTxn) : (s.transact r t).radio = r := rfl
@[simp] theorem State.transact_trace (r : Radio) (t : RadioTxn) : (s.transact r t).trace = s.trace ++ [t] := rfl
@[simp] theorem State.transact_seq (r : Radio) (t : RadioTxn) : (s.transact r t).seq = s.seq := rfl
@[simp] theorem State.transact_script (r : Radio) (t : RadioTxn) : (s.transact r t).script = s.script := rfl
@[simp] theorem State.transact_rdata (r : Radio) (t : RadioTxn) : (s.transact r t).rdata = s.rdata := rfl

@[simp] theorem State.setRadio_cfg (r : Radio) : (s.setRadio r).cfg = s.cfg := rfl
@[simp] theorem State.setRadio_cmd (r : Radio) : (s.setRadio r).cmd = s.cmd := rfl
@[simp] theorem State.setRadio_err (r : Radio) : (s.setRadio r).err = s.err := rfl
@[simp] theorem State.setRadio_progValid (r : Radio) : (s.setRadio r).progValid = s.progValid := rfl
@[simp] theorem State.setRadio_warn (r : Radio) : (s.setRadio r).warn = s.warn := rfl
@[simp] theorem State.setRadio_opnd (r : Radio) : (s.setRadio r).opnd = s.opnd := rfl
@[simp] theorem State.setRadio_res (r : Radio) : (s.setRadio r).res = s.res := rfl
@[simp] theorem State.setRadio_plan (r : Radio) : (s.setRadio r).plan = s.plan := rfl
@[simp] theorem State.setRadio_rc (r : Radio) : (s.setRadio r).rc = s.rc := rfl
@[simp] theorem State.setRadio_prog (r : Radio) : (s.setRadio r).prog = s.prog := rfl
@[simp] theorem State.setRadio_progTwoAnt (r : Radio) : (s.setRadio r).progTwoAnt = s.progTwoAnt := rfl
@[simp] theorem State.setRadio_radio (r : Radio) : (s.setRadio r).radio = r := rfl
@[simp] theorem State.setRadio_trace (r : Radio) : (s.setRadio r).trace = s.trace := rfl
@[simp] theorem State.setRadio_seq (r : Radio) : (s.setRadio r).seq = s.seq := rfl
@[simp] theorem State.setRadio_script (r : Radio) : (s.setRadio r).script = s.script := rfl
@[simp] theorem State.setRadio_rdata (r : Radio) : (s.setRadio r).rdata = s.rdata := rfl

@[simp] theorem State.setSeq_cfg (q : Seq) : (s.setSeq q).cfg = s.cfg := rfl
@[simp] theorem State.setSeq_cmd (q : Seq) : (s.setSeq q).cmd = s.cmd := rfl
@[simp] theorem State.setSeq_err (q : Seq) : (s.setSeq q).err = s.err := rfl
@[simp] theorem State.setSeq_progValid (q : Seq) : (s.setSeq q).progValid = s.progValid := rfl
@[simp] theorem State.setSeq_warn (q : Seq) : (s.setSeq q).warn = s.warn := rfl
@[simp] theorem State.setSeq_opnd (q : Seq) : (s.setSeq q).opnd = s.opnd := rfl
@[simp] theorem State.setSeq_res (q : Seq) : (s.setSeq q).res = s.res := rfl
@[simp] theorem State.setSeq_plan (q : Seq) : (s.setSeq q).plan = s.plan := rfl
@[simp] theorem State.setSeq_rc (q : Seq) : (s.setSeq q).rc = s.rc := rfl
@[simp] theorem State.setSeq_prog (q : Seq) : (s.setSeq q).prog = s.prog := rfl
@[simp] theorem State.setSeq_progTwoAnt (q : Seq) : (s.setSeq q).progTwoAnt = s.progTwoAnt := rfl
@[simp] theorem State.setSeq_radio (q : Seq) : (s.setSeq q).radio = s.radio := rfl
@[simp] theorem State.setSeq_trace (q : Seq) : (s.setSeq q).trace = s.trace := rfl
@[simp] theorem State.setSeq_seq (q : Seq) : (s.setSeq q).seq = q := rfl
@[simp] theorem State.setSeq_script (q : Seq) : (s.setSeq q).script = s.script := rfl
@[simp] theorem State.setSeq_rdata (q : Seq) : (s.setSeq q).rdata = s.rdata := rfl

@[simp] theorem State.setScript_cfg (l : List Action) : (s.setScript l).cfg = s.cfg := rfl
@[simp] theorem State.setScript_cmd (l : List Action) : (s.setScript l).cmd = s.cmd := rfl
@[simp] theorem State.setScript_err (l : List Action) : (s.setScript l).err = s.err := rfl
@[simp] theorem State.setScript_progValid (l : List Action) : (s.setScript l).progValid = s.progValid := rfl
@[simp] theorem State.setScript_warn (l : List Action) : (s.setScript l).warn = s.warn := rfl
@[simp] theorem State.setScript_opnd (l : List Action) : (s.setScript l).opnd = s.opnd := rfl
@[simp] theorem State.setScript_res (l : List Action) : (s.setScript l).res = s.res := rfl
@[simp] theorem State.setScript_plan (l : List Action) : (s.setScript l).plan = s.plan := rfl
@[simp] theorem State.setScript_rc (l : List Action) : (s.setScript l).rc = s.rc := rfl
@[simp] theorem State.setScript_prog (l : List Action) : (s.setScript l).prog = s.prog := rfl
@[simp] theorem State.setScript_progTwoAnt (l : List Action) : (s.setScript l).progTwoAnt = s.progTwoAnt := rfl
@[simp] theorem State.setScript_radio (l : List Action) : (s.setScript l).radio = s.radio := rfl
@[simp] theorem State.setScript_trace (l : List Action) : (s.setScript l).trace = s.trace := rfl
@[simp] theorem State.setScript_seq (l : List Action) : (s.setScript l).seq = s.seq := rfl
@[simp] theorem State.setScript_script (l : List Action) : (s.setScript l).script = l := rfl
@[simp] theorem State.setScript_rdata (l : List Action) : (s.setScript l).rdata = s.rdata := rfl

@[simp] theorem State.setRdata_cfg (v : BitVec 32) : (s.setRdata v).cfg = s.cfg := rfl
@[simp] theorem State.setRdata_cmd (v : BitVec 32) : (s.setRdata v).cmd = s.cmd := rfl
@[simp] theorem State.setRdata_err (v : BitVec 32) : (s.setRdata v).err = s.err := rfl
@[simp] theorem State.setRdata_progValid (v : BitVec 32) : (s.setRdata v).progValid = s.progValid := rfl
@[simp] theorem State.setRdata_warn (v : BitVec 32) : (s.setRdata v).warn = s.warn := rfl
@[simp] theorem State.setRdata_opnd (v : BitVec 32) : (s.setRdata v).opnd = s.opnd := rfl
@[simp] theorem State.setRdata_res (v : BitVec 32) : (s.setRdata v).res = s.res := rfl
@[simp] theorem State.setRdata_plan (v : BitVec 32) : (s.setRdata v).plan = s.plan := rfl
@[simp] theorem State.setRdata_rc (v : BitVec 32) : (s.setRdata v).rc = s.rc := rfl
@[simp] theorem State.setRdata_prog (v : BitVec 32) : (s.setRdata v).prog = s.prog := rfl
@[simp] theorem State.setRdata_progTwoAnt (v : BitVec 32) : (s.setRdata v).progTwoAnt = s.progTwoAnt := rfl
@[simp] theorem State.setRdata_radio (v : BitVec 32) : (s.setRdata v).radio = s.radio := rfl
@[simp] theorem State.setRdata_trace (v : BitVec 32) : (s.setRdata v).trace = s.trace := rfl
@[simp] theorem State.setRdata_seq (v : BitVec 32) : (s.setRdata v).seq = s.seq := rfl
@[simp] theorem State.setRdata_script (v : BitVec 32) : (s.setRdata v).script = s.script := rfl
@[simp] theorem State.setRdata_rdata (v : BitVec 32) : (s.setRdata v).rdata = v := rfl

end Sys2Proof.Machine
end

