-- ==== Sys2Proof/Laws/Ops.lean ====
section
/-! SUPPORT. For each shared operation, once, everything it can do. -/

namespace Sys2Proof.Machine

/-! Ends of a command. -/

theorem raiseHard_eq (code : BitVec 4) (s : State) : raiseHard code s = { s with err := code, warn := 0 } := rfl

theorem succeed_eq (w : BitVec 7) (s : State) : succeed w s = { s with err := 0, warn := w } := rfl

theorem decodeTo_eq (v : Frac) (s : State) :
    decodeTo v s = { s with err := 0, warn := 0, res := ⟨sat32 v.floor, 0, 0, 0⟩ } := rfl

/-! The radio port: what a transaction leaves in the radio, in the trace, and everywhere else. -/

theorem radioStrobe_eq (c : BitVec 8) (s : State) :
    radioStrobe c s = { s with radio := { s.radio with mode := if c = s.cfg.sIdle then .idle else s.radio.mode },
                               trace := s.trace ++ [.strobe c] } := rfl

theorem radioRead_eq (a : BitVec 8) (s : State) :
    radioRead a s = { s with trace := s.trace ++ [.read a (radioValue a s)] } := rfl

theorem radioWrite_eq (a v : BitVec 8) (s : State) :
    radioWrite a v s = { s with radio := { s.radio with mem := memWrite s.radio.mem a.toNat v },
                                trace := s.trace ++ [.write a v] } := rfl

theorem radioModify_eq (a m f : BitVec 8) (s : State) :
    radioModify a m f s =
      { s with radio := { s.radio with mem := memWrite s.radio.mem a.toNat ((radioValue a s &&& ~~~m) ||| f) },
               trace := s.trace ++ [.read a (radioValue a s), .write a ((radioValue a s &&& ~~~m) ||| f)] } := by
  simp [radioModify, radioWrite, radioRead, State.transact, List.append_assoc]

@[simp] theorem radioValue_strobe (a c : BitVec 8) (s : State) : radioValue a (radioStrobe c s) = radioValue a s := rfl

@[simp] theorem radioValue_read (a b : BitVec 8) (s : State) : radioValue a (radioRead b s) = radioValue a s := rfl

theorem radioValue_write_same (a v : BitVec 8) {s : State} (h : Memory.wf s.radio.mem = true) :
    radioValue a (radioWrite a v s) = v := memRead_memWrite_same _ _ h

theorem radioValue_write_other {a b : BitVec 8} (h : a ≠ b) (v : BitVec 8) (s : State) :
    radioValue b (radioWrite a v s) = radioValue b s :=
  memRead_memWrite_other (fun e => h (BitVec.eq_of_toNat_eq e)) v _

theorem radioValue_modify_same (a m f : BitVec 8) {s : State} (h : Memory.wf s.radio.mem = true) :
    radioValue a (radioModify a m f s) = (radioValue a s &&& ~~~m) ||| f := memRead_memWrite_same _ _ h

theorem radioValue_modify_other {a b : BitVec 8} (h : a ≠ b) (m f : BitVec 8) (s : State) :
    radioValue b (radioModify a m f s) = radioValue b s := radioValue_write_other h _ _

theorem radioStrobe_wf (c : BitVec 8) {s : State} (h : Memory.wf s.radio.mem = true) :
    Memory.wf (radioStrobe c s).radio.mem = true := h

theorem radioWrite_wf (a v : BitVec 8) {s : State} (h : Memory.wf s.radio.mem = true) :
    Memory.wf (radioWrite a v s).radio.mem = true := memWrite_wf a v h

theorem radioModify_wf (a m f : BitVec 8) {s : State} (h : Memory.wf s.radio.mem = true) :
    Memory.wf (radioModify a m f s).radio.mem = true := memWrite_wf a _ h

theorem radioPreset_wf (a v : BitVec 8) {s : State} (h : Memory.wf s.radio.mem = true) :
    Memory.wf (radioPreset a v s).radio.mem = true := memWrite_wf a v h

/-! The host's access. -/

theorem hostWrite_eq (r : BitVec 6) (v : BitVec 32) (s : State) :
    hostWrite r v s = { s with opnd := writeOpnd s.opnd v (hostReg r) } := rfl

/-- A write to `CMD`'s number is the one that starts a command (R21, R22). -/
theorem hostReg_eq_cmd_iff (r : BitVec 6) : hostReg r = .cmd ↔ r = 0 := by
  revert r; decide

theorem blockReset_eq (s : State) :
    blockReset s = { State.reset with cfg := s.cfg, radio := s.radio, trace := s.trace, seq := s.seq,
                                      script := s.script, rdata := s.rdata } := rfl

/-! The sequencer. -/

theorem seqFinish_eq (dss next : BitVec 5) (q : Seq) :
    seqFinish dss next q =
      { q with p2 := if sideEnable q.ss dss then sideValue dss else q.p2,
               pc := if delayOf q.ss dss = 0 then next else q.pc, npc := next, dly := delayOf q.ss dss } := rfl

theorem seqTake_stall {dir : ShiftDir} {n : Nat} {q : Seq} (hc : q.osrcnt = 32) (hf : q.fifo = []) :
    seqTake dir n q = none := by
  simp [seqTake, seqRefill, hc, hf]

theorem seqTake_refill {dir : ShiftDir} {n : Nat} {q : Seq} {w : BitVec 32} {rest : List (BitVec 32)}
    (hc : q.osrcnt = 32) (hf : q.fifo = w :: rest) :
    seqTake dir n q = some (shiftBits dir n w,
      { q with fifo := rest, osr := shiftRest dir n w, osrcnt := shiftCount n 0 q.draws, draws := shiftDraws n 0 q.draws }) := by
  simp [seqTake, seqRefill, hc, hf]

theorem seqTake_ready {dir : ShiftDir} {n : Nat} {q : Seq} (hc : q.osrcnt ≠ 32) :
    seqTake dir n q = some (shiftBits dir n q.osr,
      { q with osr := shiftRest dir n q.osr,
               osrcnt := shiftCount n q.osrcnt q.draws,
               draws := shiftDraws n q.osrcnt q.draws }) := by
  simp [seqTake, seqRefill, hc]

/-- An `OUT` word stalls, leaving everything as it was, or takes its bits and ends its first cycle. -/
theorem seqOut_cases (n : Nat) (dest : BitVec 32 → Seq → Seq) (dss : BitVec 5) (s : State) :
    (seqTake s.cfg.shiftDir n s.seq = none ∧ seqOut n dest dss s = .next s) ∨
    ∃ bits q, seqTake s.cfg.shiftDir n s.seq = some (bits, q) ∧
      seqOut n dest dss s = .next (s.setSeq (seqFinish dss (seqFall q) (dest bits q))) := by
  unfold seqOut
  cases h : seqTake s.cfg.shiftDir n s.seq with
  | none => exact .inl ⟨rfl, rfl⟩
  | some p => exact .inr ⟨p.1, p.2, rfl, rfl⟩

/-- Taking bits changes only `OSR`, `OSRCNT`, the FIFO and the count of free values. -/
theorem seqTake_frame {dir : ShiftDir} {n : Nat} {q r : Seq} {bits : BitVec 32}
    (h : seqTake dir n q = some (bits, r)) :
    ∃ o c f d, r = { q with osr := o, osrcnt := c, fifo := f, draws := d } := by
  by_cases hc : q.osrcnt = 32
  · cases hf : q.fifo with
    | nil => rw [seqTake_stall hc hf] at h; cases h
    | cons w rest =>
      rw [seqTake_refill hc hf] at h
      cases h
      exact ⟨_, _, _, _, rfl⟩
  · rw [seqTake_ready hc] at h
    cases h
    exact ⟨_, _, _, _, rfl⟩

/-- The install action answers a next state only for the committed program's own mode, origin and bounds, on a stopped
sequencer (R315, R316). -/
theorem install_next {two : Bool} {o ws we : BitVec 5} {s t : State} (h : install two o ws we s = .next t) :
    s.seq.running = false ∧ s.progValid = true ∧ two = s.progTwoAnt ∧ t = s.setSeq (seqInstall s.prog two s.seq) := by
  unfold install at h
  split at h
  · cases h
  · next hr =>
    split at h
    · cases h
    · next hv =>
      split at h
      · next hc => cases h; exact ⟨by simpa using hr, by simpa using hv, hc.1, rfl⟩
      · cases h

/-! What a step can do. -/

/-- A step runs an instruction on the state `issue` prepared, or has the settled outcome. -/
theorem step_run {s t : State} {i : Instr} (h : issue s = .run i t) : step s = exec i t := by simp [step, h]

/-- A run's first step, when it goes on. -/
theorem run_of_step {s t : State} (k : Nat) (h : step s = .next t) :
    Host.Core.run Sys2Proof.core (k + 1) s = Host.Core.run Sys2Proof.core k t := by
  have general : ∀ (M : Host.Core) (s t : M.State), M.step s = .next t → M.run (k + 1) s = M.run k t := by
    intro M s t h
    simp [Host.Core.run, h]
  exact general Sys2Proof.core s t h

theorem step_settle {s : State} {o : Host.Outcome State Fault Refusal} (h : issue s = .settle o) : step s = o := by
  simp [step, h]

theorem commandIssue_ok {c : BitVec 8} {i : Instr} (h : decodeCmd c = .ok i) (s : State) :
    commandIssue c s = .run i (s.setCmd c) := by simp [commandIssue, h]

theorem commandIssue_error {c : BitVec 8} {e : DecodeError} (h : decodeCmd c = .error e) (s : State) :
    commandIssue c s = .settle (.next (raiseHard errCmd (s.setCmd c))) := by simp [commandIssue, h]

theorem cycleIssue_stopped {s : State} (h : s.seq.running = false) : cycleIssue s = .settle (.next s) := by
  simp [cycleIssue, h]

theorem cycleIssue_wait {s : State} (h : s.seq.running = true) (hd : s.seq.dly ≠ 0) :
    cycleIssue s = .settle (.next (s.setSeq (seqWait s.seq))) := by
  rw [cycleIssue, if_neg (by simp [h]), if_pos hd]

theorem cycleIssue_word {s : State} {i : Instr} (h : s.seq.running = true) (hd : s.seq.dly = 0)
    (hw : decodeSeq (seqWord s.seq) = .ok i) : cycleIssue s = .run i s := by simp [cycleIssue, h, hd, hw]

theorem cycleIssue_refused {s : State} {e : DecodeError} (h : s.seq.running = true) (hd : s.seq.dly = 0)
    (hw : decodeSeq (seqWord s.seq) = .error e) :
    cycleIssue s = .settle (.refused (.wordOutsideContract (seqWord s.seq))) := by simp [cycleIssue, h, hd, hw]

theorem issue_nil {s : State} (h : s.script = []) : issue s = cycleIssue s := by simp [issue, h]

theorem issue_cons {s : State} {a : Action} {rest : List Action} (h : s.script = a :: rest) :
    issue s = actionIssue a (s.setScript rest) := by simp [issue, h]

/-- The instruction a step runs is a command the host wrote, or the word at `pc`. -/
theorem issue_run_cases {s t : State} {i : Instr} (h : issue s = .run i t) :
    (∃ r v rest, s.script = .write r v :: rest ∧ r = 0 ∧ decodeCmd (v.setWidth 8) = .ok i ∧
      t = (s.setScript rest).setCmd (v.setWidth 8)) ∨
    (s.seq.running = true ∧ s.seq.dly = 0 ∧ decodeSeq (seqWord s.seq) = .ok i ∧
      (s.script = [] ∧ t = s ∨ ∃ rest, s.script = .cycle :: rest ∧ t = s.setScript rest)) := by
  have hcyc : ∀ {u : State}, cycleIssue u = .run i t → u.seq.running = true ∧ u.seq.dly = 0 ∧
      decodeSeq (seqWord u.seq) = .ok i ∧ t = u := by
    intro u hu
    unfold cycleIssue at hu
    split at hu
    · cases hu
    · next hr =>
      split at hu
      · cases hu
      · next hd =>
        split at hu
        · next j hj => cases hu; exact ⟨by simpa using hr, by simpa using hd, hj, rfl⟩
        · cases hu
  cases hs : s.script with
  | nil =>
    rw [issue_nil hs] at h
    obtain ⟨h1, h2, h3, h4⟩ := hcyc h
    exact .inr ⟨h1, h2, h3, .inl ⟨rfl, h4⟩⟩
  | cons a rest =>
    rw [issue_cons hs] at h
    cases a with
    | write r v =>
      simp only [actionIssue] at h
      split at h
      · next hr =>
        unfold commandIssue at h
        split at h
        · next j hj => cases h; exact .inl ⟨r, v, rest, rfl, (hostReg_eq_cmd_iff r).1 hr, hj, rfl⟩
        · cases h
      · cases h
    | cycle =>
      obtain ⟨h1, h2, h3, h4⟩ := hcyc (u := s.setScript rest) h
      exact .inr ⟨h1, h2, h3, .inr ⟨rest, rfl, h4⟩⟩
    | read r => cases h
    | reset => cases h
    | push w => cases h
    | install two o ws we => cases h
    | start x y p1 p2 => cases h
    | stop => cases h
    | radioPreset a v => cases h
    | radioResume => cases h

end Sys2Proof.Machine
end

