-- ==== Sys2Proof/Laws/PerInstr.lean ====
section
/-! SUPPORT. Per instruction: its encoding has the fixed bits of its row of spec/opcode_table.json (R113). -/

namespace Sys2Proof

/-- The bits of an encoded instruction, a command code zero-extended (R113). -/
def codeBits : Code → Word16
  | .cmd8 c => c.setWidth 16
  | .seq16 w => w

/-- The `(match, mask)` of an instruction's row. -/
def rowOf : Instr → Word16 × Word16
  | .plan => (0x01, 0xFF)
  | .synth => (0x02, 0xFF)
  | .rcfg => (0x03, 0xFF)
  | .encFreq => (0x10, 0xFF)
  | .encDrate => (0x11, 0xFF)
  | .encDev => (0x12, 0xFF)
  | .encBw => (0x13, 0xFF)
  | .decFreq => (0x18, 0xFF)
  | .decDrate => (0x19, 0xFF)
  | .decDev => (0x1A, 0xFF)
  | .decBw => (0x1B, 0xFF)
  | .outNull _ => (0x6060, 0xE0FF)
  | .outY _ => (0x6040, 0xE0FF)
  | .outX _ => (0x6021, 0xE0FF)
  | .jmpNotX _ _ => (0x0020, 0xE0E0)
  | .setY _ _ => (0xE040, 0xE0E0)
  | .setPins1 _ => (0xE001, 0xE0FF)
  | .setPins0 _ => (0xE000, 0xE0FF)
  | .nop _ => (0xA042, 0xE0FF)
  | .jmpYDec _ _ => (0x0080, 0xE0E0)
  | .jmp _ _ => (0x0000, 0xE0E0)

/-- A bit of a word built from its fields (R94). -/
theorem packWord_getLsbD (op sel : BitVec 3) (dss low : BitVec 5) (i : Nat) :
    (packWord op dss sel low).getLsbD i =
      if i < 5 then low.getLsbD i else if i < 8 then sel.getLsbD (i - 5)
      else if i < 13 then dss.getLsbD (i - 8) else op.getLsbD (i - 13) := by
  change ((op ++ dss ++ sel ++ low : BitVec (3 + 5 + 3 + 5)).getLsbD i) = _
  simp only [BitVec.getLsbD_append]
  by_cases h1 : i < 5
  · simp [h1]
  · by_cases h2 : i < 8
    · simp [h1, h2, show i - 5 < 3 by omega]
    · by_cases h3 : i < 13
      · simp [h1, h2, h3, show ¬ i - 5 < 3 by omega, show i - 8 < 5 by omega, show i - 5 - 3 = i - 8 by omega]
      · simp [h1, h2, h3, show ¬ i - 5 < 3 by omega, show ¬ i - 5 - 3 < 5 by omega,
          show i - 5 - 3 - 5 = i - 13 by omega]

namespace Laws.RowShape

/-- The encoding of `i` has, under its row's mask, its row's match. -/
def Statement (i : Instr) : Prop := codeBits (encode i) &&& (rowOf i).2 = (rowOf i).1

/-- A word built from fields has the fixed bits of its fields: the mask of a row without a free operand. -/
theorem packWord_mask_full (op sel : BitVec 3) (dss low : BitVec 5) :
    packWord op dss sel low &&& 0xE0FF = packWord op 0 sel low := by
  apply BitVec.eq_of_getLsbD_eq
  intro i hi
  rw [BitVec.getLsbD_and, packWord_getLsbD, packWord_getLsbD]
  interval_cases i <;> simp

/-- The same for a row whose low five bits are an operand. -/
theorem packWord_mask_operand (op sel : BitVec 3) (dss low : BitVec 5) :
    packWord op dss sel low &&& 0xE0E0 = packWord op 0 sel 0 := by
  apply BitVec.eq_of_getLsbD_eq
  intro i hi
  rw [BitVec.getLsbD_and, packWord_getLsbD, packWord_getLsbD]
  interval_cases i <;> simp

theorem plan : Statement .plan := rfl
theorem synth : Statement .synth := rfl
theorem rcfg : Statement .rcfg := rfl
theorem encFreq : Statement .encFreq := rfl
theorem encDrate : Statement .encDrate := rfl
theorem encDev : Statement .encDev := rfl
theorem encBw : Statement .encBw := rfl
theorem decFreq : Statement .decFreq := rfl
theorem decDrate : Statement .decDrate := rfl
theorem decDev : Statement .decDev := rfl
theorem decBw : Statement .decBw := rfl
theorem outNull (dss : BitVec 5) : Statement (.outNull dss) := packWord_mask_full _ _ _ _
theorem outY (dss : BitVec 5) : Statement (.outY dss) := packWord_mask_full _ _ _ _
theorem outX (dss : BitVec 5) : Statement (.outX dss) := packWord_mask_full _ _ _ _
theorem jmpNotX (dss t : BitVec 5) : Statement (.jmpNotX dss t) := packWord_mask_operand _ _ _ _
theorem setY (dss n : BitVec 5) : Statement (.setY dss n) := packWord_mask_operand _ _ _ _
theorem setPins1 (dss : BitVec 5) : Statement (.setPins1 dss) := packWord_mask_full _ _ _ _
theorem setPins0 (dss : BitVec 5) : Statement (.setPins0 dss) := packWord_mask_full _ _ _ _
theorem nop (dss : BitVec 5) : Statement (.nop dss) := packWord_mask_full _ _ _ _
theorem jmpYDec (dss t : BitVec 5) : Statement (.jmpYDec dss t) := packWord_mask_operand _ _ _ _
theorem jmp (dss t : BitVec 5) : Statement (.jmp dss t) := packWord_mask_operand _ _ _ _

end Laws.RowShape

end Sys2Proof
end

