-- ==== Sys2Proof/Laws/Planner.lean ====
section
/-! SUPPORT. The planner's functions (R121 to R125) and the derivation's (R211 to R214): what each can be relied on for. -/

namespace Sys2Proof.Machine

/-- The four conditions of R121. -/
theorem paramOk_iff (clk d0 d1 baud : Nat) :
    paramOk clk d0 d1 baud = true ↔ 2 ≤ d0 ∧ 2 ≤ d1 ∧ 1 ≤ baud ∧ 4 ≤ clk / baud := by
  simp only [paramOk, Bool.and_eq_true, decide_eq_true_eq, and_assoc]
  exact Iff.rfl

theorem symbolPlan_total (total d : Nat) : (symbolPlan total d).fp * d + (symbolPlan total d).rem = total := by
  rw [Nat.mul_comm]
  exact Nat.div_add_mod total d

/-- The correction pair spends exactly the remainder (R125). -/
theorem symbolPlan_correction (total d : Nat) :
    (symbolPlan total d).a + (symbolPlan total d).b = (symbolPlan total d).rem := by
  simp only [symbolPlan]
  omega

theorem symbolPlan_rem_lt (total : Nat) {d : Nat} (h : 0 < d) : (symbolPlan total d).rem < d := Nat.mod_lt _ h

theorem symbolPlan_a_le (total d : Nat) : (symbolPlan total d).a ≤ d / 2 := Nat.min_le_right _ _

/-- Rounding down a quotient by a greater divisor gives no more (R14). -/
theorem roundDiv_le_of_le {a b c : Nat} (hb : 0 < b) (h : b ≤ c) : roundDiv a c ≤ roundDiv a b := by
  have e : ∀ {d : Nat}, 0 < d → roundDiv a d = (2 * a / d + 1) / 2 := by
    intro d hd
    rw [roundDiv, Nat.mul_comm 2 d, ← Nat.div_div_eq_div_mul, Nat.add_div_right _ hd]
  rw [e hb, e (Nat.lt_of_lt_of_le hb h)]
  exact Nat.div_le_div_right (Nat.succ_le_succ (Nat.div_le_div_left h hb))

/-- The achieved baud is at most a quarter of the clock, rounded (R121, R123). -/
theorem baudAchieved_le {clk baud : Nat} (hb : 1 ≤ baud) (h : 4 ≤ clk / baud) : baudAchieved clk baud ≤ clk / 4 + 1 := by
  have hm : 4 * baud ≤ clk := (Nat.le_div_iff_mul_le hb).1 h
  unfold baudAchieved
  split
  · have hq : 4 ≤ roundDiv clk baud := by
      rw [roundDiv, Nat.le_div_iff_mul_le (by omega)]
      omega
    refine Nat.le_trans (roundDiv_le_of_le (by decide) hq) ?_
    unfold roundDiv
    omega
  · omega

/-- The bounds of R43 on what the derivation computes. -/
theorem rcCenter_le {d0 d1 : Nat} (clk : Nat) (h0 : 2 ≤ d0) (h1 : 2 ≤ d1) : rcCenter clk d0 d1 ≤ clk / 2 := by
  have h0 : clk / d0 ≤ clk / 2 := Nat.div_le_div_left h0 (by decide)
  have h1 : clk / d1 ≤ clk / 2 := Nat.div_le_div_left h1 (by decide)
  simp only [rcCenter]
  omega

theorem rcDeviation_le {d0 d1 : Nat} (clk : Nat) (h0 : 2 ≤ d0) (h1 : 2 ≤ d1) :
    rcDeviation clk d0 d1 ≤ (clk / 2 + 1) / 2 := by
  have h0 : clk / d0 ≤ clk / 2 := Nat.div_le_div_left h0 (by decide)
  have h1 : clk / d1 ≤ clk / 2 := Nat.div_le_div_left h1 (by decide)
  unfold rcDeviation rcCenter
  generalize clk / d0 = x at h0 ⊢
  generalize clk / d1 = y at h1 ⊢
  split <;> omega

end Sys2Proof.Machine
end

