-- ==== Sys2Proof/Laws/Seq.lean ====
section
/-! SUPPORT. The parts of a sequencer cycle (R95, R96, R182 to R185), the stream's shifts, and the install: what each
can be relied on for. -/

namespace Sys2Proof.Machine

/-- The delay operand by the mode (R95, R96). -/
theorem delayOf_toNat (ss : Bool) (dss : BitVec 5) :
    (delayOf ss dss).toNat = if ss then dss.toNat % 8 else dss.toNat := by
  cases ss <;> simp [delayOf, BitVec.extractLsb'_toNat]
  omega

theorem delayOf_eq_zero_iff (ss : Bool) (dss : BitVec 5) : delayOf ss dss = 0 ↔ (delayOf ss dss).toNat = 0 :=
  ⟨fun h => by rw [h]; rfl, fun h => BitVec.eq_of_toNat_eq h⟩

theorem sideEnable_eq (ss : Bool) (dss : BitVec 5) : sideEnable ss dss = (ss && dss.getLsbD 4) := rfl

theorem sideValue_eq (dss : BitVec 5) : sideValue dss = dss.getLsbD 3 := rfl

/-- A word other than `OUT` always goes on, and changes the sequencer alone. -/
theorem seqDo_eq (dss next : BitVec 5) (q : Seq) (s : State) :
    seqDo dss next q s = .next { s with seq := seqFinish dss next q } := rfl

theorem seqWait_eq (q : Seq) : seqWait q = { q with dly := q.dly - 1, pc := if q.dly = 1 then q.npc else q.pc } := rfl

theorem seqPush_eq (w : BitVec 32) (q : Seq) : seqPush w q = { q with fifo := q.fifo ++ [w] } := rfl

theorem seqStart_eq (x y : BitVec 32) (p1 p2 : Bool) (q : Seq) :
    seqStart x y p1 p2 q =
      { q with pc := 0, npc := 0, osrcnt := 32, dly := 0, x := x, y := y, p1 := p1, p2 := p2, running := true } := rfl

theorem seqStop_eq (q : Seq) : seqStop q = { q with running := false } := rfl

/-- All 32 bits of a word: in either direction they are the word, and nothing is left. -/
theorem shiftBits_all (dir : ShiftDir) (w : BitVec 32) : shiftBits dir 32 w = w := by
  cases dir
  · exact BitVec.eq_of_toNat_eq (by simpa [shiftBits] using w.isLt)
  · simp [shiftBits]

theorem shiftRest_all (dir : ShiftDir) (w : BitVec 32) : shiftRest dir 32 w = 0 := by
  have h : w.toNat < 4294967296 := w.isLt
  cases dir
  · exact BitVec.eq_of_toNat_eq (by simp [shiftRest, BitVec.toNat_ushiftRight, Nat.shiftRight_eq_div_pow, h])
  · simp [shiftRest]

/-- The count while no bit is missing, and past that the free value. -/
theorem shiftCount_fit {n : Nat} {c : Fin 33} (k : Nat) (h : c.val + n ≤ 32) :
    (shiftCount n c k).val = c.val + n ∧ shiftDraws n c k = k := by simp [shiftCount, shiftDraws, h]

theorem shiftCount_past {n : Nat} {c : Fin 33} (k : Nat) (h : 32 < c.val + n) :
    shiftCount n c k = Config.freeOsrcnt k ∧ shiftDraws n c k = k + 1 := by
  have h' : ¬ c.val + n ≤ 32 := by omega
  simp [shiftCount, shiftDraws, h']

/-- The store after an install, word by word (R315). -/
theorem copyProgram_getElem (p : ProgramRegs) (imem : Vector (BitVec 16) 32) (i : Fin 32) :
    (copyProgram p imem)[i.val] = if i.val < p.len.toNat then p.words[i.val] else imem[i.val] := by
  simp [copyProgram]

/-- What a fall-through reaches: an index up to `WRAP_END` from an index up to `WRAP_END` (R185). -/
theorem seqFall_le {q : Seq} (hpc : q.pc.toNat ≤ q.wrapEnd.toNat) (hws : q.wrapStart.toNat ≤ q.wrapEnd.toNat) :
    (seqFall q).toNat ≤ q.wrapEnd.toNat := by
  unfold seqFall
  split
  · exact hws
  · next h =>
    have hne : q.pc.toNat ≠ q.wrapEnd.toNat := fun e => h (BitVec.eq_of_toNat_eq e)
    have := q.wrapEnd.isLt
    rw [BitVec.toNat_add, show (1 : BitVec 5).toNat = 1 from rfl]
    omega

end Sys2Proof.Machine
end

