-- ==== Sys2Proof/Laws/Synth.lean ====
section
/-! SUPPORT. The words the emitter makes (R142, R152 to R154): each decodes to the legal word it stands for. -/

namespace Sys2Proof.Machine

theorem capOf_pos (two : Bool) : 0 < capOf two := by cases two <;> decide

/-- `set y, n`, by its count (R154). -/
theorem decode_setY_word {n : Nat} (h : n < 32) :
    decodeSeq (0xE040 ||| BitVec.ofNat 16 n) = .ok (.setY 0 (BitVec.ofNat 5 n)) :=
  (by decide : ∀ n < 32, decodeSeq (0xE040 ||| BitVec.ofNat 16 n) = .ok (.setY 0 (BitVec.ofNat 5 n))) n h

/-- `jmp y--, t`, by its target (R154). -/
theorem decode_jmpYDec_word {t : Nat} (h : t < 32) :
    decodeSeq (0x0080 ||| BitVec.ofNat 16 t) = .ok (.jmpYDec 0 (BitVec.ofNat 5 t)) :=
  (by decide : ∀ t < 32, decodeSeq (0x0080 ||| BitVec.ofNat 16 t) = .ok (.jmpYDec 0 (BitVec.ofNat 5 t))) t h

/-- `jmp !x, t`, by its target (R152). -/
theorem decode_jmpNotX_word {t : Nat} (h : t < 32) :
    decodeSeq (0x0020 ||| BitVec.ofNat 16 t) = .ok (.jmpNotX 0 (BitVec.ofNat 5 t)) :=
  (by decide : ∀ t < 32, decodeSeq (0x0020 ||| BitVec.ofNat 16 t) = .ok (.jmpNotX 0 (BitVec.ofNat 5 t))) t h

/-- A chain's words, of `c` cycles each, are legal in either mode (R105, R143). -/
theorem chain_words_legal {two : Bool} {c : Nat} (h0 : 0 < c) (h : c ≤ capOf two) (n : Nat) :
    wordLegal two n (withCycles (setHi two) c) = true ∧ wordLegal two n (withCycles (setLo two) c) = true ∧
    wordLegal two n (withCycles nopWord c) = true := by
  have key : ∀ two, ∀ c < capOf two + 1, 0 < c →
      ((decodeSeq (withCycles (setHi two) c)).toOption.any fun i => i.wellFormed two && (i == .setPins1 (fieldDss (withCycles (setHi two) c)))) = true ∧
      ((decodeSeq (withCycles (setLo two) c)).toOption.any fun i => i.wellFormed two && (i == .setPins0 (fieldDss (withCycles (setLo two) c)))) = true ∧
      ((decodeSeq (withCycles nopWord c)).toOption.any fun i => i.wellFormed two && (i == .nop (fieldDss (withCycles nopWord c)))) = true := by
    decide
  have lift : ∀ (w : Word16) (j : Instr), targetBelow n j = true →
      ((decodeSeq w).toOption.any fun i => i.wellFormed two && (i == j)) = true → wordLegal two n w = true := by
    intro w j hj hw
    unfold wordLegal
    cases hd : decodeSeq w with
    | error e => rw [hd] at hw; exact absurd hw (by simp [Except.toOption])
    | ok i =>
      rw [hd] at hw
      simp only [Except.toOption, Option.any_some, Bool.and_eq_true, beq_iff_eq] at hw
      simp [hw.2, hj]
      rw [← hw.2]
      exact hw.1
  obtain ⟨k1, k2, k3⟩ := key two c (by omega) h0
  exact ⟨lift _ _ rfl k1, lift _ _ rfl k2, lift _ _ rfl k3⟩

end Sys2Proof.Machine
end

