-- ==== Sys2Proof/Tests/Slice0.lean ====
section
/-! SUPPORT. Tests. Expected values are the spec's: 95_test_vectors.md (V3 to V9, P1 to P5, E1 to E12), the tables of
R92, R101, R231, R236, R240, R244, and hand calculation where a comment says so. After them, for each statement with
hypotheses, states and operands that meet them. -/

open Sys2Proof Sys2Proof.Machine Sys2Proof.Spec

namespace Sys2Proof.Tests

/-! Small states. -/

/-- Reset with the planner's operands. -/
def ops (two : Bool) (d0 d1 baud : Nat) : State :=
  { State.reset with opnd := { OperandRegs.reset with
      twoAnt := two, d0 := BitVec.ofNat 16 d0, d1 := BitVec.ofNat 16 d1, baud := BitVec.ofNat 32 baud } }

/-- Reset with the codec's operands. -/
def args (a0 a1 a2 a3 : Nat) : State :=
  { State.reset with opnd := { OperandRegs.reset with
      arg0 := BitVec.ofNat 32 a0, arg1 := BitVec.ofNat 32 a1, arg2 := BitVec.ofNat 32 a2, arg3 := BitVec.ofNat 32 a3 } }

/-- `s` with a value in one radio register, as a preset leaves it (R317). -/
def preset (a v : Nat) (s : State) : State := radioPreset (BitVec.ofNat 8 a) (BitVec.ofNat 8 v) s

/-- Reset with pending actions. -/
def script (l : List Action) (s : State) : State := { s with script := l }

/-- Reset with the sequencer started, holding word `w` at 0, in antenna mode `two`. -/
def seqAt (two : Bool) (w : Word16) : State :=
  { State.reset with seq := { Seq.reset with imem := Seq.reset.imem.set 0 w, ss := two, running := true } }

/-- `s` with its sequencer changed. -/
def withSeq (f : Seq → Seq) (s : State) : State := { s with seq := f s.seq }

/-- The state an instruction leaves. -/
def after (i : Instr) (s : State) : State :=
  match exec i s with
  | .next t => t
  | .fault _ => s
  | .refused _ => s

/-- The state a step leaves. -/
def stepped (s : State) : State :=
  match step s with
  | .next t => t
  | .fault _ => s
  | .refused _ => s

/-- The name a step refuses by, if it refuses. -/
def refusal (s : State) : Option Refusal :=
  match step s with
  | .next _ => none
  | .fault _ => none
  | .refused r => some r

/-! WellFormed: an ill-formed term for each check, and the well-formed one beside it (R95, R105, R107, R152 to R154). -/

theorem test_wf_outNull : Instr.wellFormed false (.outNull 1) = false ∧ Instr.wellFormed false (.outNull 0) = true := by
  decide

theorem test_wf_outY : Instr.wellFormed true (.outY 1) = false ∧ Instr.wellFormed true (.outY 0) = true := by decide

theorem test_wf_outX : Instr.wellFormed false (.outX 16) = false ∧ Instr.wellFormed false (.outX 0) = true := by decide

theorem test_wf_jmpNotX : Instr.wellFormed false (.jmpNotX 2 18) = false ∧ Instr.wellFormed false (.jmpNotX 0 18) = true := by
  decide

theorem test_wf_setY : Instr.wellFormed true (.setY 8 31) = false ∧ Instr.wellFormed true (.setY 0 31) = true := by decide

/-- In dual-antenna mode `set pins, 1` has `SE = 1, SV = 0`; in single-antenna mode any delay is legal. -/
theorem test_wf_setPins1 : Instr.wellFormed true (.setPins1 0b11111) = false ∧
    Instr.wellFormed true (.setPins1 0b00111) = false ∧ Instr.wellFormed true (.setPins1 0b10111) = true ∧
    Instr.wellFormed false (.setPins1 0b11111) = true := by decide

/-- In dual-antenna mode `set pins, 0` has `SE = 1, SV = 1`. -/
theorem test_wf_setPins0 : Instr.wellFormed true (.setPins0 0b10111) = false ∧
    Instr.wellFormed true (.setPins0 0b11111) = true ∧ Instr.wellFormed false (.setPins0 0b00001) = true := by decide

/-- In dual-antenna mode a `nop` has no side-set. -/
theorem test_wf_nop : Instr.wellFormed true (.nop 0b10000) = false ∧ Instr.wellFormed true (.nop 0b01000) = false ∧
    Instr.wellFormed true (.nop 0b00111) = true ∧ Instr.wellFormed false (.nop 0b11111) = true := by decide

theorem test_wf_jmpYDec : Instr.wellFormed false (.jmpYDec 1 5) = false ∧ Instr.wellFormed false (.jmpYDec 0 5) = true := by
  decide

theorem test_wf_jmp : Instr.wellFormed false (.jmp 31 2) = false ∧ Instr.wellFormed false (.jmp 0 2) = true := by decide

/-! Decoding: the codes of R92 and a word of each kind, written bit by bit from R94 to R101. -/

theorem test_decode_codes : decodeCmd 0b00000001 = .ok .plan ∧ decodeCmd 0b00000010 = .ok .synth ∧
    decodeCmd 0b00000011 = .ok .rcfg ∧ decodeCmd 0b00010000 = .ok .encFreq ∧ decodeCmd 0b00010001 = .ok .encDrate ∧
    decodeCmd 0b00010010 = .ok .encDev ∧ decodeCmd 0b00010011 = .ok .encBw ∧ decodeCmd 0b00011000 = .ok .decFreq ∧
    decodeCmd 0b00011001 = .ok .decDrate ∧ decodeCmd 0b00011010 = .ok .decDev ∧ decodeCmd 0b00011011 = .ok .decBw := by
  decide

/-- R93: the edges of the reserved ranges. -/
theorem test_decode_reserved_codes : ∀ c ∈ [0x00, 0x04, 0x0F, 0x14, 0x17, 0x1C, 0xFF],
    decodeCmd (BitVec.ofNat 8 c) = .error (.reservedCode (BitVec.ofNat 8 c)) := by decide

/-- `011 00000 011 00000`. -/
theorem test_decode_outNull : decodeSeq 0b0110000001100000 = .ok (.outNull 0) := by decide

/-- `011 00000 010 00000`. -/
theorem test_decode_outY : decodeSeq 0b0110000001000000 = .ok (.outY 0) := by decide

/-- `011 00000 001 00001`. -/
theorem test_decode_outX : decodeSeq 0b0110000000100001 = .ok (.outX 0) := by decide

/-- `000 00000 001 10010`, `jmp !x, 18`. -/
theorem test_decode_jmpNotX : decodeSeq 0b0000000000110010 = .ok (.jmpNotX 0 18) := by decide

/-- `111 00000 010 11111`, `set y, 31`. -/
theorem test_decode_setY : decodeSeq 0b1110000001011111 = .ok (.setY 0 31) := by decide

/-- `111 10111 000 00001`, in dual mode `set pins, 1 side 0 [7]`. -/
theorem test_decode_setPins1 : decodeSeq 0b1111011100000001 = .ok (.setPins1 0b10111) ∧
    delayOf true 0b10111 = 7 ∧ sideEnable true 0b10111 = true ∧ sideValue 0b10111 = false := by decide

/-- `111 11111 000 00000`, in dual mode `set pins, 0 side 1 [7]`, in single mode `set pins, 0 [31]`. -/
theorem test_decode_setPins0 : decodeSeq 0b1111111100000000 = .ok (.setPins0 0b11111) ∧
    delayOf true 0b11111 = 7 ∧ sideEnable true 0b11111 = true ∧ sideValue 0b11111 = true ∧
    delayOf false 0b11111 = 31 ∧ sideEnable false 0b11111 = false := by decide

/-- `101 00111 010 00 010`, `nop [7]`. -/
theorem test_decode_nop : decodeSeq 0b1010011101000010 = .ok (.nop 7) := by decide

/-- `000 00000 100 00101`, `jmp y--, 5`. -/
theorem test_decode_jmpYDec : decodeSeq 0b0000000010000101 = .ok (.jmpYDec 0 5) := by decide

/-- `000 00000 000 00010`, `jmp 2`. -/
theorem test_decode_jmp : decodeSeq 0b0000000000000010 = .ok (.jmp 0 2) := by decide

/-- V9 and R107: words of families, conditions, destinations and counts outside the table. -/
theorem test_decode_foreign : ∀ w ∈ [0x8080, 0xE020, 0x2000, 0x4000, 0xC000, 0x0040, 0x0060, 0x00E0, 0x6061, 0x6022,
    0xA043, 0xA04A, 0xE002, 0xE01F], decodeSeq (BitVec.ofNat 16 w) = .error (.noSuchWord (BitVec.ofNat 16 w)) := by decide

/-- The encoder on the words of V9. -/
theorem test_encode_words : encode (.setPins1 0b01000) = .seq16 0xE801 ∧ encode (.nop 31) = .seq16 0xBF42 ∧
    encode (.jmpNotX 0 18) = .seq16 0x0032 ∧ encode (.setY 0 31) = .seq16 0xE05F ∧ encode .encBw = .cmd8 0x13 := by decide

/-- No word matches two rows of the table. -/
theorem test_rows_disjoint : seqRows.Pairwise fun r q => (r.1 ^^^ q.1) &&& (r.2 &&& q.2) ≠ 0 := by decide

theorem test_table_word : decodeTableWord 8 0x02 = some .synth ∧ decodeTableWord 16 0x0085 = some (.jmpYDec 0 5) ∧
    decodeTableWord 8 0x04 = none ∧ decodeTableWord 16 0x8080 = none := by decide

/-! The commands. -/

/-- V3 L1, the example of R120. -/
theorem test_plan : after .plan (ops false 20 18 100000) =
    { ops false 20 18 100000 with plan := ⟨1250, 1246, 100000, 62, 6, 6, 0, 69, 4, 4, 0⟩ } := by decide

/-- V3: `D0` = 21, `BAUD` = 98970: odd divider, adjusted baud, both correction delays. -/
theorem test_plan_warned : (after .plan (ops false 21 18 98970)).plan = ⟨1263, 1259, 98971, 59, 20, 10, 10, 69, 17, 9, 8⟩ ∧
    (after .plan (ops false 21 18 98970)).warn = 5 := by decide

/-- S5: the whole program of (40, 36, 250000), its wrap bounds and outcome. -/
theorem test_synth : (after .synth (ops false 40 36 250000)).prog.words.toList =
      [0x6060, 0x6040, 0x6021, 0x002B, 0xE04C, 0xF101, 0xF000, 0x0085, 0xF101, 0xE900, 0x0002, 0xE04B, 0xF301, 0xF200,
       0x008C, 0xEF01, 0x0002] ++ List.replicate 15 0 ∧
    progInfoWord (after .synth (ops false 40 36 250000)).prog = 0x00100011 ∧
    statusWord (after .synth (ops false 40 36 250000)) = 0x10 := by decide

/-- S2 and E11: the dual-antenna program of (20, 18, 100000) is too long; the parameter check comes first (R284). -/
theorem test_synth_errors : (after .synth (ops true 20 18 100000)).err = 1 ∧
    (after .synth (ops true 20 18 100000)).progValid = false ∧ (after .synth (ops false 0 4 50000)).err = 2 := by decide

/-- R218 (e): every warning but the order's. -/
theorem test_rcfg : (after .rcfg (ops false 3 2 30000)).rc = ⟨29998, 52083333, 10416667, 20863332⟩ ∧
    (after .rcfg (ops false 3 2 30000)).warn = 0x1D := by decide

/-- R218 (b): the dividers swapped. -/
theorem test_rcfg_order : (after .rcfg (ops false 18 20 100000)).rc = ⟨100000, 6597222, 347222, 794444⟩ ∧
    (after .rcfg (ops false 18 20 100000)).warn = 0x20 := by decide

/-- R231, first row, with its trace (`MDMCFG1` = 0x22 before). -/
theorem test_encFreq : (after .encFreq (args 2456597222 0 0 0)).res = ⟨2456597222, 2456597221, 0x5E7BC8, 3⟩ ∧
    (after .encFreq (preset 0x13 0x22 (args 2456597222 0 0 0))).trace = [.strobe 0x36, .write 0x0D 0x5E, .write 0x0E 0x7B,
      .write 0x0F 0xC8, .write 0x0A 0x01, .read 0x13 0x22, .write 0x13 0x20, .write 0x14 0x03] := by decide

/-- R231, last row: `RES1` saturates; V6: target 0 keeps bits 7 to 2 of `MDMCFG1`. -/
theorem test_encFreq_ends : (after .encFreq (args 4294967295 0 0 0)).res = ⟨4294967295, 4294967295, 0xA530A8, 3⟩ ∧
    radioValue 0x13 (after .encFreq (preset 0x13 0xFF (args 0 0 0 0))) = 0xFC := by decide

/-- R236, first row; V6: `MDMCFG4` 0x2D becomes 0x2B, `MDMCFG3` 0xF8. -/
theorem test_encDrate : (after .encDrate (args 100000 0 0 0)).res = ⟨100000, 99975, 11, 248⟩ ∧
    (after .encDrate (preset 0x10 0x2D (args 100000 0 0 0))).trace =
      [.strobe 0x36, .read 0x10 0x2D, .write 0x10 0x2B, .write 0x11 0xF8] := by decide

/-- R236: saturated high. -/
theorem test_encDrate_high : (after .encDrate (args 4294967295 0 0 0)).res = ⟨4294967295, 1621826, 15, 255⟩ ∧
    (after .encDrate (args 4294967295 0 0 0)).warn = 0x40 := by decide

/-- R240: the mantissa carried into the exponent; V6: bits 7 and 3 of `DEVIATN` kept. -/
theorem test_encDev : (after .encDev (args 200000 0 0 0)).res = ⟨200000, 203125, 7, 0⟩ ∧
    (after .encDev (preset 0x15 0x8B (args 347222 0 0 0))).trace =
      [.strobe 0x36, .read 0x15 0x8B, .write 0x15 0xFE] := by decide

/-- R240: both ceilings exceeded; the exact hit. -/
theorem test_encDev_warn : (after .encDev (args 1562500 0 0 0)).warn = 0x58 ∧ (after .encDev (args 203125 0 0 0)).warn = 0 := by
  decide

/-- R244: one hertz more than a filter takes the next wider one; V6: `MDMCFG4` 0x2B becomes 0xCB for 100 000. -/
theorem test_encBw : (after .encBw (args 203126 0 0 0)).res = ⟨203126, 232142, 1, 3⟩ ∧
    (after .encBw (preset 0x10 0x2B (args 100000 0 0 0))).trace =
      [.strobe 0x36, .read 0x10 0x2B, .write 0x10 0xCB] := by decide

/-- R244: the widest filter, hit exactly and exceeded. -/
theorem test_encBw_wide : (after .encBw (args 812500 0 0 0)).res = ⟨812500, 812500, 0, 0⟩ ∧
    (after .encBw (args 812500 0 0 0)).warn = 0 ∧ (after .encBw (args 812501 0 0 0)).warn = 0x40 := by decide

/-- R261: the examples with `CHANSPC_M` 2, with `CHAN` 0, and saturated. -/
theorem test_decFreq : (after .decFreq (args 0x5E7B4D 1 2 0)).res = ⟨2456548324, 0, 0, 0⟩ ∧
    (after .decFreq (args 0x5C4EC4 0 0 0)).res.r0 = 2399999633 ∧
    (after .decFreq (args 0xFFFFFF 255 255 3)).res.r0 = 0xFFFFFFFF := by decide

/-- R265: upper operand bits are ignored. -/
theorem test_decDrate : (after .decDrate (args 0x1B 0x1F8 0 0)).res = ⟨99975, 0, 0, 0⟩ := by decide

/-- R263. -/
theorem test_decDev : (after .decDev (args 7 6 0 0)).res.r0 = 355468 ∧ (after .decDev (args 0 0 0 0)).res.r0 = 1586 := by
  decide

/-- R264, R265. -/
theorem test_decBw : (after .decBw (args 1 3 0 0)).res.r0 = 232142 ∧ (after .decBw (args 4 0 0 0)).res.r0 = 812500 := by
  decide

/-! The host's access (V8). -/

/-- E5: bits 31 to 8 of a write to `CMD` are ignored. -/
theorem test_write_cmd : hostRead 0 (stepped (script [.write 0 0x102] (ops false 40 36 250000))) = 2 ∧
    (stepped (script [.write 0 0x102] (ops false 40 36 250000))).progValid = true := by decide

/-- E4, E7, E8, E9, E10. -/
theorem test_host_access : stepped (script [.write 0 0xFF] State.reset) = { State.reset with cmd := 0xFF, err := 3 } ∧
    stepped (script [.write 1 0xFFFFFFFF] State.reset) = State.reset ∧
    hostRead 3 (stepped (script [.write 3 0xFFFFFFFF] State.reset)) = 1 ∧
    hostRead 4 (stepped (script [.write 4 0x12345] State.reset)) = 0x2345 ∧ hostRead 0x0F (ops true 1 2 3) = 0 := by decide

/-- The last register of the map is `PROG[31]`; 0x1F is `PROG_INFO` (R21). -/
theorem test_register_numbers : hostReg 0x3F = .prog 31 ∧ hostReg 0x20 = .prog 0 ∧ hostReg 0x1F = .progInfo ∧
    hostReg 0x10 = .plT ∧ hostReg 0x1E = .rcMinBw := by decide

/-! The words, one step each, as in P2 and P5. -/

/-- Cycle 0 of P2: the header word is discarded and the stream's head is gone. -/
theorem test_outNull : (stepped (withSeq (seqPush 7) (seqAt false 0x6060))).seq.fifo = [] ∧
    (stepped (withSeq (seqPush 7) (seqAt false 0x6060))).seq.osrcnt = 32 ∧
    (stepped (withSeq (seqPush 7) (seqAt false 0x6060))).seq.pc = 1 := by decide

/-- U14: an empty stream stalls the word. -/
theorem test_outNull_stall : stepped (seqAt false 0x6060) = seqAt false 0x6060 := by decide

/-- Cycle 1 of P2. -/
theorem test_outY : (stepped (withSeq (seqPush 9) (seqAt false 0x6040))).seq.y = 9 := by decide

/-- Cycle 2 of P2: with `SHIFT_DIR` right the first bit of 2 is 0, and 31 bits are left. -/
theorem test_outX : (stepped (withSeq (seqPush 2) (seqAt false 0x6021))).seq.x = 0 ∧
    (stepped (withSeq (seqPush 2) (seqAt false 0x6021))).seq.osr = 1 ∧
    (stepped (withSeq (seqPush 2) (seqAt false 0x6021))).seq.osrcnt = 1 := by decide

/-- R183: with `SHIFT_DIR` left the first bit is bit 31. -/
theorem test_outX_left : (stepped { withSeq (seqPush 0x80000001) (seqAt false 0x6021) with
      cfg := { Config.default with shiftDir := .left } }).seq.x = 1 ∧
    (stepped { withSeq (seqPush 0x80000001) (seqAt false 0x6021) with
      cfg := { Config.default with shiftDir := .left } }).seq.osr = 2 := by decide

/-- Cycles 3 and 1255 of P2: taken when `X` is 0 only. -/
theorem test_jmpNotX : (stepped (seqAt false 0x0032)).seq.pc = 18 ∧
    (stepped (withSeq (fun q => { q with x := 1 }) (seqAt false 0x0032))).seq.pc = 1 := by decide

/-- Cycle 4 of P2. -/
theorem test_setY : (stepped (seqAt false 0xE05F)).seq.y = 31 ∧ (stepped (seqAt false 0xE05F)).seq.pc = 1 := by decide

/-- P2, cycle 5: `P1` rises at once, eight cycles are left to wait, and `pc` stays. -/
theorem test_setPins1 : (stepped (seqAt false 0xE801)).seq.p1 = true ∧ (stepped (seqAt false 0xE801)).seq.dly = 8 ∧
    (stepped (seqAt false 0xE801)).seq.pc = 0 ∧ (stepped (seqAt false 0xE801)).seq.p2 = false := by decide

/-- P5: `set pins, 1 side 0 [7]` drives both pins. -/
theorem test_setPins1_dual : (stepped (withSeq (fun q => { q with p2 := true }) (seqAt true 0xF701))).seq.p1 = true ∧
    (stepped (withSeq (fun q => { q with p2 := true }) (seqAt true 0xF701))).seq.p2 = false ∧
    (stepped (withSeq (fun q => { q with p2 := true }) (seqAt true 0xF701))).seq.dly = 7 := by decide

/-- P5: `set pins, 0 side 1 [7]`; the same word in single-antenna mode waits 31 cycles and leaves `P2`. -/
theorem test_setPins0 : (stepped (seqAt true 0xFF00)).seq.p2 = true ∧ (stepped (seqAt true 0xFF00)).seq.dly = 7 ∧
    (stepped (seqAt false 0xFF00)).seq.p2 = false ∧ (stepped (seqAt false 0xFF00)).seq.dly = 31 := by decide

/-- R193: nothing but the time that passes. -/
theorem test_nop : stepped (seqAt false 0xBF42) = withSeq (fun q => { q with npc := 1, dly := 31 }) (seqAt false 0xBF42) := by
  decide

/-- The cycle at 22 of P2: taken while the old `Y` is not 0. -/
theorem test_jmpYDec : (stepped (withSeq (fun q => { q with y := 31 }) (seqAt false 0x0085))).seq.y = 30 ∧
    (stepped (withSeq (fun q => { q with y := 31 }) (seqAt false 0x0085))).seq.pc = 5 := by decide

/-- The cycle at 580 of P2: with `Y` = 0 it falls through and `Y` wraps. -/
theorem test_jmpYDec_last : (stepped (seqAt false 0x0085)).seq.y = 0xFFFFFFFF ∧ (stepped (seqAt false 0x0085)).seq.pc = 1 := by
  decide

/-- The jump back of P2, and the fall from `WRAP_END` to `WRAP_START` (R185). -/
theorem test_jmp_and_wrap : (stepped (seqAt false 0x0002)).seq.pc = 2 ∧
    (stepped (withSeq (fun q => { q with wrapStart := 9, wrapEnd := 0 }) (seqAt false 0xA042))).seq.pc = 9 := by decide

/-- The last delay cycle moves `pc` to the next index (R182). -/
theorem test_delay_end : (stepped (withSeq (fun q => { q with dly := 1, npc := 7 }) (seqAt false 0xA042))).seq.pc = 7 ∧
    (stepped (withSeq (fun q => { q with dly := 2, npc := 7 }) (seqAt false 0xA042))).seq.pc = 0 := by decide

/-! Placing an instruction where the next step fetches it. -/

theorem test_withFetchWord : (stepped (State.reset.withFetchWord 8 0x18)).cmd = 0x18 ∧
    (stepped (State.reset.withFetchWord 8 0x18)).script = [] ∧
    (stepped (State.reset.withFetchWord 16 0xE05F)).seq.y = 31 := by decide

/-! Witnesses: for each statement with hypotheses, a state and operands that meet them all. -/

theorem witness_ResetClearsTheRegisterFileOnly : (script [.reset] (ops true 20 18 100000)).script = .reset :: [] := rfl

theorem witness_HostCommandStepRunsTheCommand :
    (script [.write 0 0x102] State.reset).script = .write 0 0x102 :: [] ∧
    decodeCmd ((0x102 : BitVec 32).setWidth 8) = .ok .synth := by decide

theorem witness_SequencerStepRunsTheWordAtPc :
    (seqAt false 0x0085).seq.running = true ∧ (seqAt false 0x0085).seq.dly = 0 ∧
    decodeSeq (seqWord (seqAt false 0x0085).seq) = .ok (.jmpYDec 0 5) ∧ (seqAt false 0x0085).script = [] ∧
    (script [.cycle] (seqAt false 0x0085)).script = .cycle :: [] := by decide

/-- The sequencer at the start of the longest delay. -/
def waiting : State := withSeq (fun q => { q with dly := 31 }) (seqAt false 0xBF42)

/-- The longest delay, in its first and its last cycle, with no action pending and with the cycles as actions. -/
theorem witness_DelayCyclesOnlyCountDown :
    ∀ k ∈ [0, 1, 31], waiting.seq.running = true ∧ 0 < waiting.seq.dly.toNat ∧ k ≤ waiting.seq.dly.toNat ∧
      waiting.script = [] ∧
      (script (List.replicate k .cycle ++ [.stop]) waiting).script = List.replicate k .cycle ++ [.stop] := by decide

/-- The edges of the reserved ranges, one of them under ignored upper bits. -/
theorem witness_ReservedCodesEndInErrCmd : ∀ v ∈ [0x00, 0x04, 0x0F, 0x14, 0x17, 0x1C, 0xFF, 0x100],
    (script [.write 0 (BitVec.ofNat 32 v)] State.reset).script = .write 0 (BitVec.ofNat 32 v) :: [] ∧
    v % 256 = (BitVec.ofNat 32 v).toNat % 256 ∧
    (v % 256 = 0 ∨ (0x04 ≤ v % 256 ∧ v % 256 ≤ 0x0F) ∨ (0x14 ≤ v % 256 ∧ v % 256 ≤ 0x17) ∨ 0x1C ≤ v % 256) := by decide

/-- Read-write, read-only and reserved registers at the ends of their ranges. -/
theorem witness_HostAccessHasNoOtherEffect : ∀ r ∈ [1, 2, 3, 4, 5, 6, 10, 11, 15, 31, 32, 63],
    (script [.write (BitVec.ofNat 6 r) 5] State.reset).script = .write (BitVec.ofNat 6 r) 5 :: [] ∧
    BitVec.ofNat 6 r ≠ 0 ∧
    (script [.read (BitVec.ofNat 6 r)] State.reset).script = .read (BitVec.ofNat 6 r) :: [] := by decide

theorem witness_EncodeOfDecodeIsTheCode :
    decode (.seq16 0xBF42) = .ok (.nop 31) ∧ decode (.cmd8 0x1B) = .ok .decBw := by decide

/-- Operands that just pass the check of R121, and operands that just fail each of its four conditions. -/
theorem witness_PlanResultsAndFrame :
    ParamsValid (ops false 2 2 31250000) ∧ ParamsValid (ops true 65535 65535 1) ∧
    ¬ ParamsValid (ops false 1 2 31250000) ∧ ¬ ParamsValid (ops false 2 1 31250000) ∧ ¬ ParamsValid (ops false 2 2 0) ∧
    ¬ ParamsValid (ops false 2 2 31250001) := by decide

theorem witness_RcfgResultsAndFrame :
    ParamsValid (ops false 2 3 31250000) ∧ ParamsValid (ops false 3 2 1) ∧ ¬ ParamsValid (ops false 1 2 31250000) := by decide

/-- Programs of 6 words, the shortest, and of 32, the longest. -/
theorem witness_SynthResultsAndFrame :
    ParamsValid (ops false 10 8 31250000) ∧ lengthOf (ops false 10 8 31250000) = 6 ∧
    ParamsValid (ops true 16 8 125000) ∧ lengthOf (ops true 16 8 125000) = 32 := by decide

/-- A program of 33 words; invalid operands. -/
theorem witness_SynthFailuresPreserveState :
    ParamsValid (ops true 12 10 150000) ∧ lengthOf (ops true 12 10 150000) = 33 ∧
    ¬ ParamsValid (ops true 0 10 150000) := by decide

theorem witness_ResultsFitTheirRegisters :
    (ops false 20 18 100000).cfg.Valid ∧ ParamsValid (ops false 20 18 100000) ∧
    exec .plan (ops false 20 18 100000) = .next (after .plan (ops false 20 18 100000)) ∧
    exec .rcfg (ops false 20 18 100000) = .next (after .rcfg (ops false 20 18 100000)) :=
  ⟨by decide, by decide, rfl, rfl⟩

/-- The slowest clock, and the fastest, that R43 and R121 admit. -/
theorem witness_ResultsFitTheirRegisters_ends : ∀ clk ∈ [4, 2147483647],
    { Config.default with clockHz := clk }.Valid ∧
    ParamsValid { ops false 2 2 1 with cfg := { Config.default with clockHz := clk } } := by decide

/-- Two states with the same `D0` and another `D1`, the other way round, and with both alike. -/
theorem witness_SymbolPlansFillTheSymbolTime :
    (ops false 20 18 100000).cfg.Valid ∧ ParamsValid (ops false 20 18 100000) ∧
    exec .plan (ops false 20 18 100000) = .next (after .plan (ops false 20 18 100000)) ∧
    (∀ p ∈ [(20, 7), (7, 18), (20, 18)], (ops true p.1 p.2 100000).cfg.clockHz = (ops false 20 18 100000).cfg.clockHz ∧
      (ops true p.1 p.2 100000).opnd.baud = (ops false 20 18 100000).opnd.baud ∧ ParamsValid (ops true p.1 p.2 100000)) ∧
    exec .plan (ops true 20 7 100000) = .next (after .plan (ops true 20 7 100000)) ∧
    exec .plan (ops true 7 18 100000) = .next (after .plan (ops true 7 18 100000)) ∧
    (ops true 20 7 100000).opnd.d0 = (ops false 20 18 100000).opnd.d0 ∧
    (ops true 7 18 100000).opnd.d1 = (ops false 20 18 100000).opnd.d1 :=
  ⟨by decide, by decide, rfl, by decide, rfl, rfl, rfl, rfl⟩

/-- Symbol 1's tone higher, lower, and the same. -/
theorem witness_DeviationClosedForm : ∀ p ∈ [(20, 18), (18, 20), (20, 20)],
    (ops false p.1 p.2 100000).cfg.Valid ∧ ParamsValid (ops false p.1 p.2 100000) ∧
    (after .rcfg (ops false p.1 p.2 100000)).err = 0 := by decide

theorem witness_DeviationClosedForm_next :
    exec .rcfg (ops false 20 18 100000) = .next (after .rcfg (ops false 20 18 100000)) ∧
    exec .rcfg (ops false 18 20 100000) = .next (after .rcfg (ops false 18 20 100000)) := ⟨rfl, rfl⟩

/-- RCFG in one mode and SYNTH in the other. -/
theorem witness_RadioConfigIsAPureFunction :
    (ops true 40 36 250000).cfg.Valid ∧
    exec .rcfg (ops true 40 36 250000) = .next (after .rcfg (ops true 40 36 250000)) ∧
    exec .synth (ops false 40 36 250000) = .next (after .synth (ops false 40 36 250000)) ∧
    (after .rcfg (ops true 40 36 250000)).err = 0 ∧ (after .synth (ops false 40 36 250000)).err = 0 :=
  ⟨by decide, rfl, rfl, by decide, by decide⟩

/-- Two states that differ in `ARG0`, which SYNTH does not read. -/
theorem witness_SynthDependsOnItsInputsOnly :
    exec .synth (ops false 40 36 250000) = .next (after .synth (ops false 40 36 250000)) ∧
    exec .synth (stepped (script [.write 7 5] (ops false 40 36 250000)))
      = .next (after .synth (stepped (script [.write 7 5] (ops false 40 36 250000)))) ∧
    (stepped (script [.write 7 5] (ops false 40 36 250000))).opnd.d0 = (ops false 40 36 250000).opnd.d0 ∧
    (after .synth (ops false 40 36 250000)).err = 0 := ⟨rfl, rfl, rfl, by decide⟩

/-- V2: the chain of 33 cycles in single-antenna mode, of 17 in dual. -/
theorem witness_ChainSpendsExactlyItsDelay :
    [0xFF01, 0xA042] = chain (setHi false) 33 (capOf false) ∧
    [0xF701, 0xA742, 0xA042] = chain (setHi true) 17 (capOf true) ∧ [] = chain (setLo true) 0 (capOf true) := by decide

theorem witness_ChainIsAPinWordThenNops : 0 < 1 ∧ chain (setLo true) 1 (capOf true) = [0xF800] := by decide

/-- 69 periods make three groups, 32 make one, none makes none. -/
theorem witness_LoopGroupsCoverTheFullPeriods :
    2 < groupCount ⟨69, 4, 4, 0⟩ ∧ 1 + 1 < groupCount ⟨69, 4, 4, 0⟩ ∧ groupCount ⟨32, 0, 0, 0⟩ = 1 ∧
    groupCount ⟨0, 3, 3, 0⟩ = 0 := by decide

theorem witness_LabelsEqualTheEmissionCursor : 8 = capOf true ∧ 32 = capOf false := by decide

/-- S5: `L_get` is at 2 and `L_back(1)` at 10, the word before `L_sym0` = 11. -/
theorem test_labels : (emitProgram false 40 36 (symbolPlan 496 40) (symbolPlan 496 36))[2]? = some 0x6021 ∧
    (emitProgram false 40 36 (symbolPlan 496 40) (symbolPlan 496 36))[10]? = some 0x0002 ∧
    labelSym0 36 (symbolPlan 496 36) 32 = 11 := by decide

theorem witness_CommittedProgramIsLegal :
    ParamsValid (ops true 16 8 125000) ∧ lengthOf (ops true 16 8 125000) ≤ 32 ∧
    ParamsValid (ops false 10 8 31250000) ∧ lengthOf (ops false 10 8 31250000) ≤ 32 := by decide

theorem witness_EveryEmittedWordIsTheRulesOwn :
    ParamsValid (ops true 16 8 125000) ∧ lengthOf (ops true 16 8 125000) ≤ 32 ∧ (ops true 16 8 125000).opnd.twoAnt = true ∧
    996 = (ops true 16 8 125000).cfg.clockHz / (ops true 16 8 125000).opnd.baud.toNat - 4 ∧
    ParamsValid (ops false 10 8 31250000) ∧ lengthOf (ops false 10 8 31250000) ≤ 32 := by decide

/-- S5, from its listing: the count of the symbol-0 group is 12 periods, its jump goes back to its first pin word, and the
correction is high only. -/
theorem test_emitted_words : (wordAt (after .synth (ops false 40 36 250000)).prog 11 = some (.setY 0 11)) ∧
    wordAt (after .synth (ops false 40 36 250000)).prog 14 = some (.jmpYDec 0 12) ∧
    wordAt (after .synth (ops false 40 36 250000)).prog 15 = some (.setPins1 15) ∧
    wordAt (after .synth (ops false 40 36 250000)).prog 17 = none := by decide

theorem witness_EncFreqFieldsAndTransactions :
    (args 2456597222 0 0 0).cfg.AddressesDistinct ∧ Memory.wf (args 2456597222 0 0 0).radio.mem = true ∧
    24768547 = min ((2 * (2456597222 * 2 ^ 18) + 26000000) / (2 * 26000000)) (4 * (2 ^ 24 + 63) + 3) ∧
    252 = min ((2 * (25000 * 2 ^ 18) + 26000000) / (2 * 26000000)) (4 * (2 ^ 24 + 63) + 3) := by decide

theorem witness_EncDrateFieldsAndTransactions :
    (args 100000 0 0 0).cfg.AddressesDistinct ∧ Memory.wf (preset 0x10 0x2D (args 100000 0 0 0)).radio.mem = true := by decide

theorem witness_EncDevFieldsAndTransactions :
    Memory.wf (preset 0x15 0x8B (args 347222 0 0 0)).radio.mem = true ∧
    radioValue 0x15 (preset 0x15 0x8B (args 347222 0 0 0)) = 0x8B := by decide

theorem witness_EncBwNarrowestAdequateFilter :
    Memory.wf (preset 0x10 0x2B (args 100000 0 0 0)).radio.mem = true ∧
    radioValue 0x10 (preset 0x10 0x2B (args 100000 0 0 0)) = 0x2B := by decide

theorem witness_EncCommandsStrobeIdleFirst : Instr.encFreq ∈ encCommands ∧ Instr.encBw ∈ encCommands := by decide

/-- Each conversion, from the fields its ENC command returned (V7). -/
theorem witness_DecodingReturnedFieldsGivesAchieved :
    exec .encFreq (args 868000000 0 0 0) = .next (after .encFreq (args 868000000 0 0 0)) ∧
    (args 0x216236 1 1 0).opnd.arg0 = (after .encFreq (args 868000000 0 0 0)).res.r2 ∧
    (args 0x216236 1 1 0).opnd.arg2 = (after .encFreq (args 868000000 0 0 0)).res.r3 ∧
    exec .decFreq (args 0x216236 1 1 0) = .next (after .decFreq (args 0x216236 1 1 0)) ∧
    exec .encDrate (args 1200 0 0 0) = .next (after .encDrate (args 1200 0 0 0)) ∧
    (args 5 131 0 0).opnd.arg0 = (after .encDrate (args 1200 0 0 0)).res.r2 ∧
    (args 5 131 0 0).opnd.arg1 = (after .encDrate (args 1200 0 0 0)).res.r3 ∧
    exec .decDrate (args 5 131 0 0) = .next (after .decDrate (args 5 131 0 0)) :=
  ⟨rfl, by decide, by decide, rfl, rfl, by decide, by decide, rfl⟩

theorem witness_DecodingReturnedFieldsGivesAchieved_dev :
    exec .encDev (args 3000 0 0 0) = .next (after .encDev (args 3000 0 0 0)) ∧
    (args 0 7 0 0).opnd.arg0 = (after .encDev (args 3000 0 0 0)).res.r2 ∧
    (args 0 7 0 0).opnd.arg1 = (after .encDev (args 3000 0 0 0)).res.r3 ∧
    exec .decDev (args 0 7 0 0) = .next (after .decDev (args 0 7 0 0)) := ⟨rfl, by decide, by decide, rfl⟩

theorem witness_DecodingReturnedFieldsGivesAchieved_bw :
    exec .encBw (args 58036 0 0 0) = .next (after .encBw (args 58036 0 0 0)) ∧
    (args 3 2 0 0).opnd.arg0 = (after .encBw (args 58036 0 0 0)).res.r2 ∧
    (args 3 2 0 0).opnd.arg1 = (after .encBw (args 58036 0 0 0)).res.r3 ∧
    exec .decBw (args 3 2 0 0) = .next (after .decBw (args 3 2 0 0)) := ⟨rfl, by decide, by decide, rfl⟩

/-- Both ends of the range, exactly, with a reference oscillator of 1 Hz steps (`F_REF` = 2^18). -/
theorem witness_FrequencyErrorWithinHalfQuarterStep :
    (∀ t ∈ [256, 67109119], 256 * 2 ^ 18 ≤ t * 2 ^ 18 ∧ t * 2 ^ 18 ≤ (4 * (2 ^ 24 + 63) + 3) * 2 ^ 18) ∧
    256 * 26000000 ≤ 25391 * 2 ^ 18 ∧ 25391 * 2 ^ 18 ≤ (4 * (2 ^ 24 + 63) + 3) * 26000000 ∧
    (args 25391 0 0 0).opnd.arg0.toNat = 25391 ∧ (args 25391 0 0 0).cfg.fRef = 26000000 := by decide

theorem witness_FrequencyErrorWithinHalfQuarterStep_next :
    exec .encFreq (args 25391 0 0 0) = .next (after .encFreq (args 25391 0 0 0)) ∧
    exec .encFreq { args 67109119 0 0 0 with cfg := { Config.default with fRef := 2 ^ 18 } }
      = .next (after .encFreq { args 67109119 0 0 0 with cfg := { Config.default with fRef := 2 ^ 18 } }) := ⟨rfl, rfl⟩

/-- The ends of the ranges of R246: data rate 25 to 1 621 826, deviation 1 587 to 380 859. -/
theorem witness_MantissaErrorWithinHalfStep :
    (∀ r ∈ [25, 1621826], 256 * 26000000 ≤ r * 2 ^ 28 ∧ r * 2 ^ 28 ≤ 511 * 2 ^ 15 * 26000000) ∧
    (∀ d ∈ [1587, 380859], 8 * 26000000 ≤ d * 2 ^ 17 ∧ d * 2 ^ 17 ≤ 15 * 2 ^ 7 * 26000000) := by decide

theorem witness_MantissaErrorWithinHalfStep_next :
    exec .encDrate (args 25 0 0 0) = .next (after .encDrate (args 25 0 0 0)) ∧
    exec .encDev (args 1587 0 0 0) = .next (after .encDev (args 1587 0 0 0)) := ⟨rfl, rfl⟩

/-- P3's two orders. -/
theorem witness_BandwidthAndDataRateCommute :
    (preset 0x10 0x2D (args 794444 0 0 0)).cfg.AddressesDistinct ∧
    Memory.wf (preset 0x10 0x2D (args 794444 0 0 0)).radio.mem = true ∧
    radioValue 0x10 (after .encBw (preset 0x10 0x2D (args 794444 0 0 0))) = 0x0D := by decide

/-- `s` with another request in `ARG0`. -/
def withArg0 (a : BitVec 32) (s : State) : State := { s with opnd := { s.opnd with arg0 := a } }

/-- The radio and the bandwidth request of P3. -/
def p3 : State := preset 0x10 0x2D (args 794444 0 0 0)

theorem witness_BandwidthAndDataRateCommute_next :
    exec .encBw p3 = .next (after .encBw p3) ∧
    exec .encDrate (withArg0 100000 (after .encBw p3)) = .next (after .encDrate (withArg0 100000 (after .encBw p3))) ∧
    exec .encDrate (withArg0 100000 p3) = .next (after .encDrate (withArg0 100000 p3)) ∧
    exec .encBw (withArg0 p3.opnd.arg0 (after .encDrate (withArg0 100000 p3)))
      = .next (after .encBw (withArg0 p3.opnd.arg0 (after .encDrate (withArg0 100000 p3)))) := ⟨rfl, rfl, rfl, rfl⟩

/-- A timing command and an ENC command, both successful and both with warnings. -/
theorem witness_WarnHoldsExactlyTheCommandsFlags :
    Instr.rcfg.isWord = false ∧ (ops false 3 2 30000).cfg.Valid ∧ (after .rcfg (ops false 3 2 30000)).err = 0 ∧
    Instr.encDev.isWord = false ∧ (after .encDev (args 1562500 0 0 0)).err = 0 := by decide

theorem witness_WarnHoldsExactlyTheCommandsFlags_next :
    exec .rcfg (ops false 3 2 30000) = .next (after .rcfg (ops false 3 2 30000)) ∧
    exec .encDev (args 1562500 0 0 0) = .next (after .encDev (args 1562500 0 0 0)) := ⟨rfl, rfl⟩

/-- Each of the two errors a command ends in. -/
theorem witness_HardErrorsArePreciseAndListed :
    (after .plan (ops false 0 0 0)).err ≠ 0 ∧ (after .synth (ops true 12 10 150000)).err ≠ 0 := by decide

theorem witness_HardErrorsArePreciseAndListed_next :
    exec .plan (ops false 0 0 0) = .next (after .plan (ops false 0 0 0)) ∧
    exec .synth (ops true 12 10 150000) = .next (after .synth (ops true 12 10 150000)) := ⟨rfl, rfl⟩

theorem witness_CommandsKeepOperandsAndSequencer : Instr.plan.isWord = false ∧ Instr.decBw.isWord = false := by decide

theorem witness_WordsChangeTheSequencerOnly : (Instr.outX 0).isWord = true ∧ (Instr.jmp 0 2).isWord = true := by decide

/-- A step that leaves the program, a reset, and a successful SYNTH. -/
theorem witness_OnlySynthReplacesTheProgram :
    step (script [.write 4 7] State.reset) = .next (stepped (script [.write 4 7] State.reset)) ∧
    step (script [.reset] State.reset) = .next (stepped (script [.reset] State.reset)) ∧
    step (script [.write 0 2] (ops false 40 36 250000)) = .next (stepped (script [.write 0 2] (ops false 40 36 250000))) :=
  ⟨rfl, rfl, rfl⟩

/-- An ENC command, a preset, and a command without transactions. -/
theorem witness_OnlyEncCommandsUseTheRadioPort :
    step (script [.write 0 0x12] State.reset) = .next (stepped (script [.write 0 0x12] State.reset)) ∧
    step (script [.radioPreset 0x10 0x2D] State.reset) = .next (stepped (script [.radioPreset 0x10 0x2D] State.reset)) ∧
    step (script [.radioResume] State.reset) = .next (stepped (script [.radioResume] State.reset)) ∧
    step (script [.write 0 0x18] State.reset) = .next (stepped (script [.write 0 0x18] State.reset)) :=
  ⟨rfl, rfl, rfl, rfl⟩

theorem witness_EveryStepKeepsTheParameters : step State.reset = .next State.reset := rfl

/-- Taking 32 bits with 31 gone: a free value is counted, and `Y` and `OSR` are as R183 says. -/
theorem test_outY_begun : (stepped (withSeq (fun q => { q with osrcnt := 31, osr := 1 }) (seqAt false 0x6040))).seq.draws = 1 ∧
    (stepped (withSeq (fun q => { q with osrcnt := 31, osr := 1 }) (seqAt false 0x6040))).seq.y = 1 ∧
    (stepped (withSeq (fun q => { q with osrcnt := 31, osr := 1 }) (seqAt false 0x6040))).seq.osr = 0 := by decide

/-- Bits at hand: 31 of an `OSR` word gone, and an empty `OSR` with a stream word waiting; in both directions. -/
theorem witness_OutWordsTakeStreamBits :
    ((withSeq (fun q => { q with osrcnt := 31, osr := 1 }) (seqAt false 0x6021)).seq.osrcnt ≠ 32 ∧
      (1, 31, []) = pulled (withSeq (fun q => { q with osrcnt := 31, osr := 1 }) (seqAt false 0x6021)).seq) ∧
    ((withSeq (seqPush 7) (seqAt false 0x6060)).seq.fifo ≠ [] ∧
      (7, 0, []) = pulled (withSeq (seqPush 7) (seqAt false 0x6060)).seq) ∧
    1 = nextIndex (seqAt false 0x6060).seq ∧ (seqAt false 0x6060).cfg.shiftDir = .right ∧
    { Config.default with shiftDir := .left }.shiftDir = .left := by decide

theorem witness_OutWordsStallOnAnEmptyStream :
    Instr.outX 0 ∈ [Instr.outNull 0, .outY 0, .outX 0] ∧ (seqAt false 0x6021).seq.osrcnt = 32 ∧
    (seqAt false 0x6021).seq.fifo = [] := by decide

theorem witness_SetAndNopWordsResultAndFrame :
    1 = nextIndex (seqAt true 0xF701).seq ∧
    9 = nextIndex (withSeq (fun q => { q with wrapStart := 9, wrapEnd := 0 }) (seqAt true 0xF701)).seq := by decide

theorem witness_ForeignWordsAreRefused :
    (seqAt false 0x8080).script = [] ∧ (script [.cycle] (seqAt false 0x8080)).script = .cycle :: [] ∧ (seqAt false 0x8080).seq.running = true ∧ (seqAt false 0x8080).seq.dly = 0 ∧
    (∀ r ∈ seqRows, seqWord (seqAt false 0x8080).seq &&& r.2 ≠ r.1) ∧
    refusal (seqAt false 0x8080) = some (.wordOutsideContract 0x8080) :=
  have h : seqWord (seqAt false 0x8080).seq = 0x8080 := rfl
  ⟨rfl, rfl, rfl, rfl, by rw [h]; simp [seqRows], rfl⟩

/-- A committed program of 17 words, in the installing host's hands. -/
def installer (two : Bool) (o ws we : BitVec 5) : State :=
  script [.install two o ws we] (after .synth (ops false 40 36 250000))

theorem witness_InstallCopiesTheCommittedProgram :
    (installer false 0 0 16).seq.running = false ∧ (installer false 0 0 16).progValid = true ∧
    (installer false 0 0 16).script = [.install (installer false 0 0 16).progTwoAnt 0
      ((installer false 0 0 16).prog.wrapStart.setWidth 5) ((installer false 0 0 16).prog.wrapEnd.setWidth 5)] := by decide

/-- Each ground of refusal: running; no program; another mode, origin, wrap start, wrap end. -/
theorem witness_InstallOutsideTheContractIsRefused :
    refusal (withSeq (fun q => { q with running := true }) (installer false 0 0 16)) = some .installWhileRunning ∧
    refusal (script [.install false 0 0 0] State.reset) = some .installWithoutProgram ∧
    refusal (installer true 0 0 16) = some .installOutsideContract ∧
    refusal (installer false 1 0 16) = some .installOutsideContract ∧
    refusal (installer false 0 1 16) = some .installOutsideContract ∧
    refusal (installer false 0 0 17) = some .installOutsideContract := by decide

theorem witness_HostActionsOnTheSequencer :
    (script [.push 7] State.reset).script = .push 7 :: [] ∧
    (script [.start 1 2 true false] State.reset).script = .start 1 2 true false :: [] ∧
    (script [.stop] State.reset).script = .stop :: [] ∧ State.reset.seq.running = false ∧ State.reset.script = [] ∧
    (script [.cycle] State.reset).script = .cycle :: [] := by decide

/-- The first and the last address, one of them holding a listed value before. -/
theorem witness_PlatformActionsOnTheRadio :
    (∀ a ∈ [0x00, 0x10, 0xFF], Memory.wf (preset 0x10 0x2D State.reset).radio.mem = true ∧
      (script [.radioPreset (BitVec.ofNat 8 a) 0x8C] (preset 0x10 0x2D State.reset)).script
        = .radioPreset (BitVec.ofNat 8 a) 0x8C :: []) ∧
    (script [.radioResume] State.reset).script = .radioResume :: [] := by decide

theorem witness_EveryStepKeepsMemoryCanonicalAndErrListed :
    PortInv (script [.write 0 0x13] (args 100000 0 0 0)) ∧
    memRead (stepped (script [.write 0 0x13] (args 100000 0 0 0))).radio.mem 0x10 = 0xCC := by decide

theorem witness_EveryStepKeepsMemoryCanonicalAndErrListed_next :
    step (script [.write 0 0x13] (args 100000 0 0 0)) = .next (stepped (script [.write 0 0x13] (args 100000 0 0 0))) := rfl

/-- Without a program before a SYNTH, and with one before a reset. -/
theorem witness_EveryStepKeepsTheCommittedProgramGood :
    ProgramInv (script [.write 0 2] (ops false 40 36 250000)) ∧ ProgramInv (installer false 0 0 16) := by decide

/-- The installed program of S5, started. -/
theorem witness_EveryStepKeepsTheSequencerInItsProgram :
    ProgramInv (installer false 0 0 16) ∧ SeqInv (installer false 0 0 16).seq ∧
    SeqInv (stepped (installer false 0 0 16)).seq ∧ (stepped (installer false 0 0 16)).seq.wrapEnd = 16 := by decide

/-- The install goes on: `Fault` is empty and the step is not refused. -/
theorem witness_EveryStepKeepsTheSequencerInItsProgram_next : refusal (installer false 0 0 16) = none := by decide

theorem witness_EveryStepGoesOnInsideTheInvariant :
    SeqInv (seqAt false 0xE801).seq ∧ (seqAt false 0xE801).script = [] ∧ refusal (seqAt false 0xE801) = none := by decide

end Sys2Proof.Tests
end

section
/-! PROOFS. What a command leaves alone, what a word can change, and what a step that runs no instruction answers;
then O43, that no step changes the model arguments. -/

namespace Sys2Proof.Machine

/-! Commands: the frame that all eleven share (R24 to R27, R41). -/

/-- `t` agrees with `s` on everything no command touches: the model arguments, the operand registers, `CMD`, the
sequencer, and what the outside world has in hand. -/
structure CommandKeeps (s t : State) : Prop where
  cfg : t.cfg = s.cfg
  opnd : t.opnd = s.opnd
  cmd : t.cmd = s.cmd
  seq : t.seq = s.seq
  script : t.script = s.script
  rdata : t.rdata = s.rdata

namespace CommandKeeps

variable {s t u : State}

theorem refl (s : State) : CommandKeeps s s := ⟨rfl, rfl, rfl, rfl, rfl, rfl⟩

theorem trans (h : CommandKeeps s t) (k : CommandKeeps t u) : CommandKeeps s u :=
  ⟨k.cfg.trans h.cfg, k.opnd.trans h.opnd, k.cmd.trans h.cmd, k.seq.trans h.seq, k.script.trans h.script,
    k.rdata.trans h.rdata⟩

/-! Each update a command is made of stays inside the frame. -/

theorem setOutcome (h : CommandKeeps s t) (e : BitVec 4) (w : BitVec 7) : CommandKeeps s (t.setOutcome e w) :=
  h.trans ⟨rfl, rfl, rfl, rfl, rfl, rfl⟩

theorem setRes (h : CommandKeeps s t) (r : ResultRegs) : CommandKeeps s (t.setRes r) :=
  h.trans ⟨rfl, rfl, rfl, rfl, rfl, rfl⟩

theorem setPlan (h : CommandKeeps s t) (p : PlanRegs) : CommandKeeps s (t.setPlan p) :=
  h.trans ⟨rfl, rfl, rfl, rfl, rfl, rfl⟩

theorem setRc (h : CommandKeeps s t) (r : RadioCfgRegs) : CommandKeeps s (t.setRc r) :=
  h.trans ⟨rfl, rfl, rfl, rfl, rfl, rfl⟩

theorem setProg (h : CommandKeeps s t) (p : ProgramRegs) (two : Bool) : CommandKeeps s (t.setProg p two) :=
  h.trans ⟨rfl, rfl, rfl, rfl, rfl, rfl⟩

theorem transact (h : CommandKeeps s t) (r : Radio) (x : RadioTxn) : CommandKeeps s (t.transact r x) :=
  h.trans ⟨rfl, rfl, rfl, rfl, rfl, rfl⟩

theorem succeed (h : CommandKeeps s t) (w : BitVec 7) : CommandKeeps s (succeed w t) := h.setOutcome _ _

theorem raiseHard (h : CommandKeeps s t) (code : BitVec 4) : CommandKeeps s (raiseHard code t) := h.setOutcome _ _

theorem decodeTo (h : CommandKeeps s t) (v : Frac) : CommandKeeps s (decodeTo v t) := (h.setRes _).succeed _

theorem strobe (h : CommandKeeps s t) (c : BitVec 8) : CommandKeeps s (radioStrobe c t) := h.transact _ _

theorem write (h : CommandKeeps s t) (a v : BitVec 8) : CommandKeeps s (radioWrite a v t) := h.transact _ _

theorem modify (h : CommandKeeps s t) (a m f : BitVec 8) : CommandKeeps s (radioModify a m f t) :=
  (h.transact _ _).write _ _

end CommandKeeps

theorem freqTransactions_keeps (freq m : Nat) (s : State) : CommandKeeps s (freqTransactions freq m s) :=
  (((((((CommandKeeps.refl s).strobe _).write _ _).write _ _).write _ _).write _ _).modify _ _ _).write _ _

theorem drateTransactions_keeps (e m : Nat) (s : State) : CommandKeeps s (drateTransactions e m s) :=
  (((CommandKeeps.refl s).strobe _).modify _ _ _).write _ _

theorem devTransactions_keeps (e m : Nat) (s : State) : CommandKeeps s (devTransactions e m s) :=
  ((CommandKeeps.refl s).strobe _).modify _ _ _

theorem bwTransactions_keeps (e m : Nat) (s : State) : CommandKeeps s (bwTransactions e m s) :=
  ((CommandKeeps.refl s).strobe _).modify _ _ _

theorem execPlan_keeps (s : State) : ∃ t, execPlan s = .next t ∧ CommandKeeps s t := by
  unfold execPlan
  dsimp only
  split
  · exact ⟨_, rfl, ((CommandKeeps.refl s).setPlan _).succeed _⟩
  · exact ⟨_, rfl, (CommandKeeps.refl s).raiseHard _⟩

theorem execRcfg_keeps (s : State) : ∃ t, execRcfg s = .next t ∧ CommandKeeps s t := by
  unfold execRcfg
  dsimp only
  split
  · exact ⟨_, rfl, ((CommandKeeps.refl s).setRc _).succeed _⟩
  · exact ⟨_, rfl, (CommandKeeps.refl s).raiseHard _⟩

theorem execSynth_keeps (s : State) : ∃ t, execSynth s = .next t ∧ CommandKeeps s t := by
  unfold execSynth
  dsimp only
  split
  · split
    · exact ⟨_, rfl, (CommandKeeps.refl s).raiseHard _⟩
    · exact ⟨_, rfl, ((((CommandKeeps.refl s).setProg _ _).setPlan _).setRc _).succeed _⟩
  · exact ⟨_, rfl, (CommandKeeps.refl s).raiseHard _⟩

/-- Every command goes on, inside the common frame. -/
theorem exec_command_keeps {i : Instr} (hi : i.isWord = false) (s : State) :
    ∃ t, exec i s = .next t ∧ CommandKeeps s t := by
  cases i with
  | plan => exact execPlan_keeps s
  | synth => exact execSynth_keeps s
  | rcfg => exact execRcfg_keeps s
  | encFreq => exact ⟨_, rfl, ((freqTransactions_keeps _ _ s).setRes _).succeed _⟩
  | encDrate => exact ⟨_, rfl, ((drateTransactions_keeps _ _ s).setRes _).succeed _⟩
  | encDev => exact ⟨_, rfl, ((devTransactions_keeps _ _ s).setRes _).succeed _⟩
  | encBw => exact ⟨_, rfl, ((bwTransactions_keeps _ _ s).setRes _).succeed _⟩
  | decFreq | decDrate | decDev | decBw => exact ⟨_, rfl, (CommandKeeps.refl s).decodeTo _⟩
  | outNull | outY | outX | jmpNotX | setY | setPins1 | setPins0 | nop | jmpYDec | jmp => cases hi

/-! Words: the sequencer is all they can change (R41, R78). -/

/-- A stall is the case where the sequencer stays what it was. -/
theorem seqOut_setSeq (n : Nat) (dest : BitVec 32 → Seq → Seq) (dss : BitVec 5) (s : State) :
    ∃ q, seqOut n dest dss s = .next (s.setSeq q) := by
  obtain ⟨-, hstall⟩ | ⟨bits, q, -, htaken⟩ := seqOut_cases n dest dss s
  · exact ⟨s.seq, hstall⟩
  · exact ⟨_, htaken⟩

theorem exec_word_setSeq {i : Instr} (hi : i.isWord = true) (s : State) : ∃ q, exec i s = .next (s.setSeq q) := by
  cases i with
  | outNull | outY | outX => exact seqOut_setSeq _ _ _ s
  | jmpNotX | setY | setPins1 | setPins0 | nop | jmpYDec | jmp => exact ⟨_, rfl⟩
  | plan | synth | rcfg | encFreq | encDrate | encDev | encBw | decFreq | decDrate | decDev | decBw => cases hi

/-! Steps that run no instruction. -/

/-- A cycle that executes no word and is not refused leaves everything but the sequencer. -/
theorem cycleIssue_settle_next {s t : State} (h : cycleIssue s = .settle (.next t)) : ∃ q, t = s.setSeq q := by
  unfold cycleIssue at h
  split at h
  · cases h; exact ⟨s.seq, rfl⟩
  · split at h
    · cases h; exact ⟨_, rfl⟩
    · split at h <;> cases h

/-- What an action that runs no instruction can answer: the sequencer alone moves, a reserved code is stored and ends in
the hard error, or the action is one of the host's accesses, a reset, or the platform's hand on the radio. -/
theorem actionIssue_settle_next {a : Action} {s t : State} (h : actionIssue a s = .settle (.next t)) :
    (∃ q, t = s.setSeq q) ∨
    (∃ v, a = .write 0 v ∧ t = raiseHard errCmd (s.setCmd (v.setWidth 8))) ∨
    (∃ r v, a = .write r v ∧ r ≠ 0 ∧ t = hostWrite r v s) ∨
    (∃ r, a = .read r ∧ t = s.setRdata (hostRead r s)) ∨
    (a = .reset ∧ t = blockReset s) ∨
    (∃ b v, a = .radioPreset b v ∧ t = radioPreset b v s) ∨
    (a = .radioResume ∧ t = radioResume s) := by
  cases a with
  | write r v =>
    simp only [actionIssue, hostReg_eq_cmd_iff] at h
    split at h
    · next hr =>
      subst hr
      cases hd : decodeCmd (v.setWidth 8) with
      | ok i => rw [commandIssue_ok hd] at h; cases h
      | error e => rw [commandIssue_error hd] at h; cases h; exact .inr (.inl ⟨v, rfl, rfl⟩)
    · next hr => cases h; exact .inr (.inr (.inl ⟨r, v, rfl, hr, rfl⟩))
  | read r => cases h; exact .inr (.inr (.inr (.inl ⟨r, rfl, rfl⟩)))
  | reset => cases h; exact .inr (.inr (.inr (.inr (.inl ⟨rfl, rfl⟩))))
  | cycle => exact .inl (cycleIssue_settle_next h)
  | install two o ws we =>
    simp only [actionIssue, Issue.settle.injEq] at h
    obtain ⟨-, -, -, ht⟩ := install_next h
    exact .inl ⟨_, ht⟩
  | push | start | stop => cases h; exact .inl ⟨_, rfl⟩
  | radioPreset b v => cases h; exact .inr (.inr (.inr (.inr (.inr (.inl ⟨b, v, rfl, rfl⟩)))))
  | radioResume => cases h; exact .inr (.inr (.inr (.inr (.inr (.inr ⟨rfl, rfl⟩)))))

/-- A step that goes on ran an instruction, or its next state was settled when it was issued. -/
theorem step_next_cases {s t : State} (h : step s = .next t) :
    (∃ i u, issue s = .run i u ∧ exec i u = .next t) ∨ issue s = .settle (.next t) := by
  cases hi : issue s with
  | run i u => exact .inl ⟨i, u, rfl, step_run hi ▸ h⟩
  | settle o => rw [step_settle hi] at h; exact .inr (h ▸ rfl)

/-! The model arguments (R8, R11). -/

@[simp] theorem raiseHard_cfg (code : BitVec 4) (s : State) : (raiseHard code s).cfg = s.cfg := rfl
@[simp] theorem hostWrite_cfg (r : BitVec 6) (v : BitVec 32) (s : State) : (hostWrite r v s).cfg = s.cfg := rfl
@[simp] theorem blockReset_cfg (s : State) : (blockReset s).cfg = s.cfg := rfl
@[simp] theorem radioPreset_cfg (a v : BitVec 8) (s : State) : (radioPreset a v s).cfg = s.cfg := rfl
@[simp] theorem radioResume_cfg (s : State) : (radioResume s).cfg = s.cfg := rfl

theorem exec_cfg {i : Instr} {s t : State} (h : exec i s = .next t) : t.cfg = s.cfg := by
  cases hi : i.isWord with
  | false =>
    obtain ⟨u, hu, hkeeps⟩ := exec_command_keeps hi s
    cases hu.symm.trans h
    exact hkeeps.cfg
  | true =>
    obtain ⟨q, hq⟩ := exec_word_setSeq hi s
    cases hq.symm.trans h
    exact s.setSeq_cfg q

theorem issue_run_cfg {s t : State} {i : Instr} (h : issue s = .run i t) : t.cfg = s.cfg := by
  obtain ⟨r, v, rest, -, -, -, rfl⟩ | ⟨-, -, -, ⟨-, rfl⟩ | ⟨rest, -, rfl⟩⟩ := issue_run_cases h
  · simp
  · rfl
  · simp

theorem actionIssue_settle_cfg {a : Action} {s t : State} (h : actionIssue a s = .settle (.next t)) :
    t.cfg = s.cfg := by
  obtain ⟨q, rfl⟩ | ⟨v, -, rfl⟩ | ⟨r, v, -, -, rfl⟩ | ⟨r, -, rfl⟩ | ⟨-, rfl⟩ | ⟨b, v, -, rfl⟩ | ⟨-, rfl⟩ :=
    actionIssue_settle_next h <;> simp

theorem issue_settle_cfg {s t : State} (h : issue s = .settle (.next t)) : t.cfg = s.cfg := by
  cases hs : s.script with
  | nil =>
    rw [issue_nil hs] at h
    obtain ⟨q, rfl⟩ := cycleIssue_settle_next h
    exact s.setSeq_cfg q
  | cons a rest =>
    rw [issue_cons hs] at h
    exact (actionIssue_settle_cfg h).trans (s.setScript_cfg rest)

/-- Settles O43: an instruction keeps the arguments of the state it runs on, which are those of the state it was issued
from; a step that runs none keeps them too. -/
theorem everyStepKeepsTheParameters : Obligations.EveryStepKeepsTheParameters := by
  intro s t h
  obtain ⟨i, u, hrun, hexec⟩ | hsettle := step_next_cases h
  · exact (exec_cfg hexec).trans (issue_run_cfg hrun)
  · exact issue_settle_cfg hsettle

end Sys2Proof.Machine
end

section
/-! PROOFS. What the three timing commands answer, case by case; the lengths and the words of an emitted program; then
O26, that what SYNTH commits is a legal program. -/

namespace Sys2Proof.Machine

/-! PLAN, RCFG and SYNTH by the outcome of their checks (R120, R140, R210). -/

section TimingCommands

variable {s : State}

theorem execPlan_valid (h : ParamsValid s) : execPlan s =
    .next (succeed (timingWarn s.cfg s.opnd.d0.toNat s.opnd.d1.toNat s.opnd.baud.toNat)
      (s.setPlan (fullPlan s.cfg.clockHz s.opnd.d0.toNat s.opnd.d1.toNat s.opnd.baud.toNat))) :=
  if_pos ((paramOk_iff ..).2 h)

theorem execPlan_invalid (h : ¬ ParamsValid s) : execPlan s = .next (raiseHard errParam s) :=
  if_neg fun k => h ((paramOk_iff ..).1 k)

theorem execRcfg_valid (h : ParamsValid s) : execRcfg s =
    .next (succeed (derivationWarn s.cfg s.opnd.d0.toNat s.opnd.d1.toNat s.opnd.baud.toNat)
      (s.setRc (radioCfgRegs s.cfg.clockHz s.opnd.d0.toNat s.opnd.d1.toNat s.opnd.baud.toNat))) :=
  if_pos ((paramOk_iff ..).2 h)

theorem execRcfg_invalid (h : ¬ ParamsValid s) : execRcfg s = .next (raiseHard errParam s) :=
  if_neg fun k => h ((paramOk_iff ..).1 k)

/-- The words SYNTH emits for the operands a state holds (R151). -/
abbrev wordsOf (s : State) : List Word16 :=
  emitProgram s.opnd.twoAnt s.opnd.d0.toNat s.opnd.d1.toNat (planOf0 s) (planOf1 s)

theorem execSynth_commit (h : ParamsValid s) (hn : lengthOf s ≤ 32) : execSynth s =
    .next (succeed (derivationWarn s.cfg s.opnd.d0.toNat s.opnd.d1.toNat s.opnd.baud.toNat)
      (((s.setProg (commitRegs (lengthOf s) (wordsOf s)) s.opnd.twoAnt).setPlan
        (fullPlan s.cfg.clockHz s.opnd.d0.toNat s.opnd.d1.toNat s.opnd.baud.toNat)).setRc
        (radioCfgRegs s.cfg.clockHz s.opnd.d0.toNat s.opnd.d1.toNat s.opnd.baud.toNat))) :=
  (if_pos ((paramOk_iff ..).2 h)).trans (if_neg (Nat.not_lt.2 hn))

theorem execSynth_tooLong (h : ParamsValid s) (hn : 32 < lengthOf s) :
    execSynth s = .next (raiseHard errCapacity s) :=
  (if_pos ((paramOk_iff ..).2 h)).trans (if_pos hn)

theorem execSynth_invalid (h : ¬ ParamsValid s) : execSynth s = .next (raiseHard errParam s) :=
  if_neg fun k => h ((paramOk_iff ..).1 k)

end TimingCommands

/-! Lengths: pass 2 emits as many words as pass 1 laid out (R144, R147, R149). -/

/-- With fuel for every cycle the loop of R143 emits one word per round. -/
theorem chainFrom_length {cap : Nat} (hcap : 0 < cap) :
    ∀ {fuel v : Nat} (w : Word16), v ≤ fuel → (chainFrom cap fuel w v).length = ic v cap
  | 0, v, _, h => by simp [chainFrom, Nat.le_zero.1 h]
  | fuel + 1, v, w, h => by
    unfold chainFrom
    split
    · next hv => simp [hv]
    · next hv =>
      have hrest : v - min cap v ≤ fuel := by omega
      rw [List.length_cons, chainFrom_length hcap nopWord hrest, ← ic_step hcap (Nat.pos_of_ne_zero hv)]

theorem chain_length (base : Word16) (v : Nat) (two : Bool) :
    (chain base v (capOf two)).length = ic v (capOf two) :=
  chainFrom_length (capOf_pos two) base (Nat.le_refl v)

theorem emitGroup_length (two : Bool) (start d : Nat) (p : SymPlan) (g : Nat) :
    (emitGroup two start d p g).length = groupLen d (capOf two) := by
  simp only [emitGroup, groupLen, List.length_cons, List.length_append, List.length_nil, chain_length]
  omega

/-- `n` loop groups take `n` times the words of one. -/
theorem emitGroups_length (two : Bool) (start d : Nat) (p : SymPlan) (n : Nat) :
    ((List.range n).flatMap (emitGroup two start d p)).length = n * groupLen d (capOf two) := by
  simp [List.length_flatMap, emitGroup_length]

theorem emitBlock_length (two : Bool) (start d : Nat) (p : SymPlan) :
    (emitBlock two start d p).length = blockLen d p (capOf two) := by
  simp only [emitBlock, blockLen, List.length_append, List.length_cons, List.length_nil, emitGroups_length, chain_length]

theorem emitProgram_length (two : Bool) (d0 d1 : Nat) (p0 p1 : SymPlan) :
    (emitProgram two d0 d1 p0 p1).length = programLen d0 d1 p0 p1 (capOf two) := by
  simp only [emitProgram, emitPrologue, programLen, List.length_append, List.length_cons, List.length_nil,
    emitBlock_length]

theorem one_le_blockLen (d : Nat) (p : SymPlan) (cap : Nat) : 1 ≤ blockLen d p cap := Nat.le_add_left 1 _

/-- The smallest program is the prologue and two jumps back (R33). -/
theorem six_le_programLen (d0 d1 : Nat) (p0 p1 : SymPlan) (cap : Nat) : 6 ≤ programLen d0 d1 p0 p1 cap := by
  have h0 := one_le_blockLen d0 p0 cap
  have h1 := one_le_blockLen d1 p1 cap
  unfold programLen
  omega

/-! Labels: every jump's target lies inside the program (R103, R150). -/

theorem labelSym0_lt_programLen (d0 d1 : Nat) (p0 p1 : SymPlan) (cap : Nat) :
    labelSym0 d1 p1 cap < programLen d0 d1 p0 p1 cap := by
  have h0 := one_le_blockLen d0 p0 cap
  unfold labelSym0 programLen
  omega

/-- The target of group `g`'s loop lies in its block: `g + 1` groups of at least two words fit there. -/
theorem labelLoop_lt {p : SymPlan} {g : Nat} (hg : g < groupCount p) (start d cap : Nat) :
    labelLoop start d cap g < start + blockLen d p cap := by
  have hlen : 2 ≤ groupLen d cap := by unfold groupLen; omega
  have hfit : (g + 1) * groupLen d cap ≤ groupCount p * groupLen d cap := Nat.mul_le_mul_right _ hg
  rw [Nat.succ_mul] at hfit
  unfold labelLoop blockLen
  omega

/-! Legality: every emitted word is a legal word of its mode (R105, R107, R142, R152 to R155). -/

theorem wordLegal_of_decode {two : Bool} {n : Nat} {w : Word16} {i : Instr} (hd : decodeSeq w = .ok i)
    (hwf : i.wellFormed two = true) (ht : targetBelow n i = true) : wordLegal two n w = true := by
  simp [wordLegal, hd, hwf, ht]

/-- Each word of a chain is its base word or a `nop`, for 1 to `cap` cycles (R143). -/
theorem mem_chainFrom {cap : Nat} (hcap : 0 < cap) {x : Word16} :
    ∀ {fuel v : Nat} {w : Word16}, x ∈ chainFrom cap fuel w v →
      ∃ c, 0 < c ∧ c ≤ cap ∧ (x = withCycles w c ∨ x = withCycles nopWord c)
  | 0, _, _, h => by simp [chainFrom] at h
  | fuel + 1, v, w, h => by
    unfold chainFrom at h
    split at h
    · cases h
    · next hv =>
      obtain rfl | hrest := List.mem_cons.1 h
      · exact ⟨min cap v, by omega, Nat.min_le_left _ _, .inl rfl⟩
      · obtain ⟨c, h0, hc, hx⟩ := mem_chainFrom hcap hrest
        exact ⟨c, h0, hc, .inr (or_self_iff.1 hx)⟩

/-- A chain of either pin level is legal in its mode, in a program of any length. -/
theorem chain_legal {two hi : Bool} {v : Nat} {w : Word16} (n : Nat)
    (hw : w ∈ chain (if hi then setHi two else setLo two) v (capOf two)) : wordLegal two n w = true := by
  obtain ⟨c, h0, hc, hx⟩ := mem_chainFrom (capOf_pos two) hw
  obtain ⟨hhi, hlo, hnop⟩ := chain_words_legal h0 hc n
  obtain rfl | rfl := hx
  · cases hi
    · exact hlo
    · exact hhi
  · exact hnop

theorem setY_word_legal {two : Bool} {k : Nat} (n : Nat) (hk : k < 32) :
    wordLegal two n (0xE040 ||| BitVec.ofNat 16 k) = true :=
  wordLegal_of_decode (decode_setY_word hk) rfl rfl

theorem ofNat5_toNat_lt {k n : Nat} (hk : k < n) (hn : n ≤ 32) : decide ((BitVec.ofNat 5 k).toNat < n) = true := by
  simp only [BitVec.toNat_ofNat, decide_eq_true_eq]
  omega

theorem jmpYDec_word_legal {two : Bool} {k n : Nat} (hk : k < n) (hn : n ≤ 32) :
    wordLegal two n (0x0080 ||| BitVec.ofNat 16 k) = true :=
  wordLegal_of_decode (decode_jmpYDec_word (by omega)) rfl (ofNat5_toNat_lt hk hn)

theorem jmpNotX_word_legal {two : Bool} {k n : Nat} (hk : k < n) (hn : n ≤ 32) :
    wordLegal two n (0x0020 ||| BitVec.ofNat 16 k) = true :=
  wordLegal_of_decode (decode_jmpNotX_word (by omega)) rfl (ofNat5_toNat_lt hk hn)

/-- The jump back to `L_get` (R153). -/
theorem jmpGet_word_legal {two : Bool} {n : Nat} (h : 2 < n) : wordLegal two n 0x0002 = true :=
  wordLegal_of_decode (i := .jmp 0 2) (by decide) rfl (decide_eq_true h)

theorem emitPrologue_legal {two : Bool} {sym0 n : Nat} (h : sym0 < n) (hn : n ≤ 32) :
    ∀ w ∈ emitPrologue sym0, wordLegal two n w = true := by
  simp only [emitPrologue, List.forall_mem_cons]
  exact ⟨wordLegal_of_decode (i := .outNull 0) (by decide) rfl rfl,
    wordLegal_of_decode (i := .outY 0) (by decide) rfl rfl,
    wordLegal_of_decode (i := .outX 0) (by decide) rfl rfl, jmpNotX_word_legal h hn, by simp⟩

theorem emitGroup_legal {two : Bool} {start d n g : Nat} {p : SymPlan} (hg : g < groupCount p)
    (hb : start + blockLen d p (capOf two) ≤ n) (hn : n ≤ 32) :
    ∀ w ∈ emitGroup two start d p g, wordLegal two n w = true := by
  have hiters : groupIters p g - 1 < 32 := by
    have : groupIters p g ≤ 32 := Nat.min_le_left _ _
    omega
  have htarget := labelLoop_lt hg start d (capOf two)
  simp only [emitGroup, List.cons_append, List.forall_mem_cons, List.forall_mem_append]
  exact ⟨setY_word_legal n hiters, ⟨fun _ => chain_legal (hi := true) n, fun _ => chain_legal (hi := false) n⟩,
    jmpYDec_word_legal (by omega) hn, by simp⟩

/-- A block that fits a program of `n` words holds only legal words. -/
theorem emitBlock_legal {two : Bool} {start d n : Nat} {p : SymPlan} (hb : start + blockLen d p (capOf two) ≤ n)
    (hn : n ≤ 32) (h2 : 2 < n) : ∀ w ∈ emitBlock two start d p, wordLegal two n w = true := by
  simp only [emitBlock, List.forall_mem_append, List.forall_mem_flatMap, List.mem_range]
  exact ⟨⟨⟨fun g hg => emitGroup_legal hg hb hn, fun _ => chain_legal (hi := true) n⟩,
    fun _ => chain_legal (hi := false) n⟩, List.forall_mem_singleton.2 (jmpGet_word_legal h2)⟩

theorem emitProgram_legal {two : Bool} {d0 d1 n : Nat} {p0 p1 : SymPlan}
    (hlen : programLen d0 d1 p0 p1 (capOf two) = n) (hn : n ≤ 32) :
    ∀ w ∈ emitProgram two d0 d1 p0 p1, wordLegal two n w = true := by
  have h6 := six_le_programLen d0 d1 p0 p1 (capOf two)
  have hsym0 := labelSym0_lt_programLen d0 d1 p0 p1 (capOf two)
  have hblocks : labelSym0 d1 p1 (capOf two) + blockLen d0 p0 (capOf two) = n := hlen
  have hblock1 : labelSym1 + blockLen d1 p1 (capOf two) = labelSym0 d1 p1 (capOf two) := rfl
  simp only [emitProgram, List.forall_mem_append]
  exact ⟨⟨emitPrologue_legal (by omega) hn, emitBlock_legal (by omega) hn (by omega)⟩,
    emitBlock_legal (by omega) hn (by omega)⟩

/-- A block's last word is the jump back to `L_get` (R153). -/
theorem emitBlock_last (two : Bool) (start d : Nat) (p : SymPlan) :
    (emitBlock two start d p).getLast? = some 0x0002 := List.getLast?_concat

theorem emitProgram_last (two : Bool) (d0 d1 : Nat) (p0 p1 : SymPlan) :
    (emitProgram two d0 d1 p0 p1).getLast? = some 0x0002 := by
  rw [emitProgram, List.getLast?_append, emitBlock_last, Option.some_or]

/-! What a commit leaves in the program registers (R157, R158). -/

/-- A list of 6 to 32 legal words that ends in `jmp 2` commits to a good program. -/
theorem commitRegs_good {two : Bool} {b : List Word16} {n : Nat} (hlen : b.length = n) (h6 : 6 ≤ n) (h32 : n ≤ 32)
    (hlegal : ∀ w ∈ b, wordLegal two n w = true) (hlast : b.getLast? = some 0x0002) :
    ProgramGood (commitRegs n b) two := by
  have hn : (commitRegs n b).len.toNat = n := Nat.mod_eq_of_lt (by omega)
  have hend : (commitRegs n b).wrapEnd.toNat = n - 1 := Nat.mod_eq_of_lt (by omega)
  have hword : ∀ i : Fin 32, (commitRegs n b).words[i.val] = b.getD i.val 0x0000 := fun i => by simp [commitRegs]
  simp only [ProgramGood, hn, hend, hword]
  refine ⟨h6, h32, rfl, by omega, fun i hi => ?_, fun i hi => ?_, fun i hi => ?_⟩
  · have hb : i.val < b.length := by omega
    rw [List.getD_eq_getElem _ _ hb]
    exact hlegal _ (List.getElem_mem hb)
  · exact List.getD_eq_default _ _ (by omega)
  · rw [List.getLast?_eq_getElem?, show b.length - 1 = i.val by omega] at hlast
    rw [List.getD_eq_getElem?_getD, hlast, Option.getD_some]

/-- What SYNTH commits, whenever it fits, is a good program of the mode it was synthesised for. -/
theorem commitOf_good {s : State} (hn : lengthOf s ≤ 32) :
    ProgramGood (commitRegs (lengthOf s) (wordsOf s)) s.opnd.twoAnt :=
  commitRegs_good (emitProgram_length ..) (six_le_programLen ..) hn (emitProgram_legal rfl hn) (emitProgram_last ..)

/-- Settles O26: the emitted words are legal and as many as laid out, the last is `jmp 2`, and the commit stores them. -/
theorem committedProgramIsLegal : Obligations.CommittedProgramIsLegal := by
  intro s hvalid hn
  exact ⟨_, execSynth_commit hvalid hn, rfl, Nat.mod_eq_of_lt (show lengthOf s < 2 ^ 8 by omega), commitOf_good hn⟩

end Sys2Proof.Machine
end

section
/-! PROOFS. Who replaces the committed program: no instruction but SYNTH, no action but a reset; from the one lemma that
says so, O53, that every step keeps it good, and O41, that only these two change it. -/

namespace Sys2Proof.Machine

/-! The port: transactions reach the radio and the trace (R66), and nothing else. -/

/-- `t` is `s` but for the radio and the trace. -/
def PortOnly (s t : State) : Prop := ∃ r l, t = { s with radio := r, trace := l }

namespace PortOnly

variable {s t : State}

theorem refl (s : State) : PortOnly s s := ⟨s.radio, s.trace, rfl⟩

theorem transact (h : PortOnly s t) (r : Radio) (x : RadioTxn) : PortOnly s (t.transact r x) := by
  obtain ⟨r', l, rfl⟩ := h
  exact ⟨r, l ++ [x], rfl⟩

theorem strobe (h : PortOnly s t) (c : BitVec 8) : PortOnly s (radioStrobe c t) := h.transact _ _

theorem write (h : PortOnly s t) (a v : BitVec 8) : PortOnly s (radioWrite a v t) := h.transact _ _

theorem modify (h : PortOnly s t) (a m f : BitVec 8) : PortOnly s (radioModify a m f t) := (h.transact _ _).write _ _

end PortOnly

theorem freqTransactions_portOnly (freq m : Nat) (s : State) : PortOnly s (freqTransactions freq m s) :=
  (((((((PortOnly.refl s).strobe _).write _ _).write _ _).write _ _).write _ _).modify _ _ _).write _ _

theorem drateTransactions_portOnly (e m : Nat) (s : State) : PortOnly s (drateTransactions e m s) :=
  (((PortOnly.refl s).strobe _).modify _ _ _).write _ _

theorem devTransactions_portOnly (e m : Nat) (s : State) : PortOnly s (devTransactions e m s) :=
  ((PortOnly.refl s).strobe _).modify _ _ _

theorem bwTransactions_portOnly (e m : Nat) (s : State) : PortOnly s (bwTransactions e m s) :=
  ((PortOnly.refl s).strobe _).modify _ _ _

/-! The committed program. -/

/-- `t` holds the committed program `s` holds (R32): the buffer, `PROG_INFO`, `PROG_VALID`, and the mode. -/
structure ProgramKept (s t : State) : Prop where
  prog : t.prog = s.prog
  progValid : t.progValid = s.progValid
  progTwoAnt : t.progTwoAnt = s.progTwoAnt

namespace ProgramKept

variable {s t u : State}

theorem trans (h : ProgramKept s t) (k : ProgramKept t u) : ProgramKept s u :=
  ⟨k.prog.trans h.prog, k.progValid.trans h.progValid, k.progTwoAnt.trans h.progTwoAnt⟩

theorem inv (h : ProgramKept s t) (hs : ProgramInv s) : ProgramInv t := by
  simpa only [ProgramInv, h.prog, h.progValid, h.progTwoAnt] using hs

end ProgramKept

/-- `t` holds a good program that a SYNTH has just committed (R32, R33). -/
structure ProgramCommitted (t : State) : Prop where
  err : t.err = 0
  progValid : t.progValid = true
  good : ProgramGood t.prog t.progTwoAnt

theorem ProgramCommitted.inv {t : State} (h : ProgramCommitted t) : ProgramInv t :=
  ⟨fun _ => h.good, fun hv => absurd (h.progValid.symm.trans hv) (by decide)⟩

theorem blockReset_programInv (s : State) : ProgramInv (blockReset s) :=
  ⟨nofun, fun _ => ⟨rfl, rfl⟩⟩

/-! Instructions. -/

theorem execPlan_program (s : State) : ∃ t, execPlan s = .next t ∧ ProgramKept s t := by
  by_cases hp : ParamsValid s
  · exact ⟨_, execPlan_valid hp, rfl, rfl, rfl⟩
  · exact ⟨_, execPlan_invalid hp, rfl, rfl, rfl⟩

theorem execRcfg_program (s : State) : ∃ t, execRcfg s = .next t ∧ ProgramKept s t := by
  by_cases hp : ParamsValid s
  · exact ⟨_, execRcfg_valid hp, rfl, rfl, rfl⟩
  · exact ⟨_, execRcfg_invalid hp, rfl, rfl, rfl⟩

/-- SYNTH commits a good program, or fails and keeps the old one (R161). -/
theorem execSynth_program (s : State) : ∃ t, execSynth s = .next t ∧ (ProgramKept s t ∨ ProgramCommitted t) := by
  by_cases hp : ParamsValid s
  · rcases Nat.lt_or_ge 32 (lengthOf s) with hn | hn
    · exact ⟨_, execSynth_tooLong hp hn, .inl ⟨rfl, rfl, rfl⟩⟩
    · exact ⟨_, execSynth_commit hp hn, .inr ⟨rfl, rfl, commitOf_good hn⟩⟩
  · exact ⟨_, execSynth_invalid hp, .inl ⟨rfl, rfl, rfl⟩⟩

/-- A command that runs no `ParamCheck` and no word: it makes its transactions and reports, and keeps the program. -/
theorem ProgramKept.of_port {s t : State} (h : PortOnly s t) (r : ResultRegs) (w : BitVec 7) :
    ProgramKept s (succeed w (t.setRes r)) := by
  obtain ⟨radio, trace, rfl⟩ := h
  exact ⟨rfl, rfl, rfl⟩

/-- No instruction but SYNTH touches the committed program. -/
theorem exec_program {i : Instr} (hi : i ≠ .synth) (s : State) : ∃ t, exec i s = .next t ∧ ProgramKept s t := by
  cases hw : i.isWord with
  | true =>
    obtain ⟨q, hq⟩ := exec_word_setSeq hw s
    exact ⟨_, hq, rfl, rfl, rfl⟩
  | false =>
    cases i with
    | synth => exact absurd rfl hi
    | plan => exact execPlan_program s
    | rcfg => exact execRcfg_program s
    | encFreq => exact ⟨_, rfl, .of_port (freqTransactions_portOnly _ _ s) _ _⟩
    | encDrate => exact ⟨_, rfl, .of_port (drateTransactions_portOnly _ _ s) _ _⟩
    | encDev => exact ⟨_, rfl, .of_port (devTransactions_portOnly _ _ s) _ _⟩
    | encBw => exact ⟨_, rfl, .of_port (bwTransactions_portOnly _ _ s) _ _⟩
    | decFreq | decDrate | decDev | decBw => exact ⟨_, rfl, .of_port (PortOnly.refl s) _ _⟩
    | outNull | outY | outX | jmpNotX | setY | setPins1 | setPins0 | nop | jmpYDec | jmp => cases hw

/-! Steps. -/

theorem issue_run_program {s t : State} {i : Instr} (h : issue s = .run i t) : ProgramKept s t := by
  obtain ⟨r, v, rest, -, -, -, rfl⟩ | ⟨-, -, -, ⟨-, rfl⟩ | ⟨rest, -, rfl⟩⟩ := issue_run_cases h <;>
    exact ⟨rfl, rfl, rfl⟩

/-- Of the actions that run no instruction, only the reset touches the committed program. -/
theorem actionIssue_settle_program {a : Action} {s t : State} (h : actionIssue a s = .settle (.next t)) :
    ProgramKept s t ∨ a = .reset ∧ t = blockReset s := by
  obtain ⟨q, rfl⟩ | ⟨v, -, rfl⟩ | ⟨r, v, -, -, rfl⟩ | ⟨r, -, rfl⟩ | hreset | ⟨b, v, -, rfl⟩ | ⟨-, rfl⟩ :=
    actionIssue_settle_next h
  case inr.inr.inr.inr.inl => exact .inr hreset
  all_goals exact .inl ⟨rfl, rfl, rfl⟩

theorem issue_settle_program {s t : State} (h : issue s = .settle (.next t)) :
    ProgramKept s t ∨ ∃ rest, s.script = .reset :: rest ∧ t = blockReset (s.setScript rest) := by
  cases hs : s.script with
  | nil =>
    rw [issue_nil hs] at h
    obtain ⟨q, rfl⟩ := cycleIssue_settle_next h
    exact .inl ⟨rfl, rfl, rfl⟩
  | cons a rest =>
    rw [issue_cons hs] at h
    obtain hkept | ⟨rfl, rfl⟩ := actionIssue_settle_program h
    · exact .inl (ProgramKept.trans (t := s.setScript rest) ⟨rfl, rfl, rfl⟩ hkept)
    · exact .inr ⟨rest, rfl, rfl⟩

theorem decodeCmd_synth_iff (c : Byte) : decodeCmd c = .ok .synth ↔ c = 0x02 := by
  revert c; decide

theorem decodeSeq_isWord {w : Word16} {i : Instr} (h : decodeSeq w = .ok i) : i.isWord = true := by
  simp only [decodeSeq, decodeJmp, decodeOut, decodeMov, decodeSet] at h
  split_ifs at h <;> cases h <;> rfl

/-- SYNTH is issued by the host's write of its code alone (R22). -/
theorem issue_run_synth {s t : State} (h : issue s = .run .synth t) :
    ∃ v rest, s.script = .write 0 v :: rest ∧ v.setWidth 8 = (0x02 : BitVec 8) := by
  obtain ⟨r, v, rest, hs, rfl, hd, -⟩ | ⟨-, -, hw, -⟩ := issue_run_cases h
  · exact ⟨v, rest, hs, (decodeCmd_synth_iff _).1 hd⟩
  · exact absurd (decodeSeq_isWord hw) (by decide)

/-- What a step does to the committed program: nothing, its reset, or the commit of a successful SYNTH (R32). -/
theorem step_program_cases {s t : State} (h : step s = .next t) :
    ProgramKept s t ∨ (∃ rest, s.script = .reset :: rest ∧ t = blockReset (s.setScript rest)) ∨
    ∃ v rest, s.script = .write 0 v :: rest ∧ v.setWidth 8 = (0x02 : BitVec 8) ∧ ProgramCommitted t := by
  obtain ⟨i, u, hrun, hexec⟩ | hsettle := step_next_cases h
  · have hissued := issue_run_program hrun
    by_cases hi : i = .synth
    · subst hi
      obtain ⟨v, rest, hs, hv⟩ := issue_run_synth hrun
      obtain ⟨w, hw, hcases⟩ := execSynth_program u
      cases hw.symm.trans hexec
      obtain hkept | hcommit := hcases
      · exact .inl (hissued.trans hkept)
      · exact .inr (.inr ⟨v, rest, hs, hv, hcommit⟩)
    · obtain ⟨w, hw, hkept⟩ := exec_program hi u
      cases hw.symm.trans hexec
      exact .inl (hissued.trans hkept)
  · exact (issue_settle_program hsettle).imp_right .inl

/-- Settles O53: what a step keeps stays good, the reset values meet the invariant, and a commit is good. -/
theorem everyStepKeepsTheCommittedProgramGood : Obligations.EveryStepKeepsTheCommittedProgramGood := by
  intro s t hinv h
  obtain hkept | ⟨rest, -, rfl⟩ | ⟨v, rest, -, -, hcommit⟩ := step_program_cases h
  · exact hkept.inv hinv
  · exact blockReset_programInv _
  · exact hcommit.inv

/-- Settles O41. -/
theorem onlySynthReplacesTheProgram : Obligations.OnlySynthReplacesTheProgram := by
  intro s t h
  obtain hkept | ⟨rest, hs, -⟩ | ⟨v, rest, hs, hv, hcommit⟩ := step_program_cases h
  · exact .inl ⟨hkept.prog, hkept.progValid⟩
  · exact .inr (.inl ⟨rest, hs⟩)
  · exact .inr (.inr ⟨v, rest, hs, hv, hcommit.err, hcommit.progValid⟩)

end Sys2Proof.Machine
end

section
/-! PROOFS. The host's register access: which register a number names and what a read of it returns (O8), what a write
leaves there and elsewhere (O7), and the write that starts a command (O3). -/

namespace Sys2Proof.Machine

/-! The register numbers (R21). -/

/-- The number of a register: `hostReg` read backwards (R21). -/
def HostReg.number : HostReg → BitVec 6
  | .prog i => BitVec.ofNat 6 (32 + i.val)
  | a => BitVec.ofNat 6 (lowRegs.idxOf a)

theorem number_hostReg (r : BitVec 6) : (hostReg r).number = r := by
  revert r; decide

/-- Two numbers name two registers. -/
theorem hostReg_injective : Function.Injective hostReg := Function.LeftInverse.injective number_hostReg

theorem hostReg_prog (i : Fin 32) : hostReg (BitVec.ofNat 6 (0x20 + i.val)) = .prog i := by
  revert i; decide

/-! What a read returns (R20, R23, R31). -/

/-- `STATUS`: the error code, and `PROG_VALID` in bit 4 (R23). -/
theorem statusWord_toNat (s : State) :
    (statusWord s).toNat = s.err.toNat + if s.progValid then 16 else 0 := by
  have herr : s.err.toNat < 16 := s.err.isLt
  rw [statusWord, BitVec.toNat_setWidth_of_le (by decide), BitVec.toNat_append,
    ← Nat.shiftLeft_add_eq_or_of_lt s.err.isLt, Nat.shiftLeft_eq]
  cases s.progValid <;> simp [Nat.add_comm]

/-- `PROG_INFO`: `LEN`, `WRAP_START` and `WRAP_END`, a byte each (R31). -/
theorem progInfoWord_toNat (p : ProgramRegs) :
    (progInfoWord p).toNat = p.len.toNat + 2 ^ 8 * p.wrapStart.toNat + 2 ^ 16 * p.wrapEnd.toNat := by
  rw [progInfoWord, BitVec.toNat_setWidth_of_le (by decide), BitVec.toNat_append, BitVec.toNat_append,
    ← Nat.shiftLeft_add_eq_or_of_lt p.len.isLt, ← Nat.shiftLeft_add_eq_or_of_lt p.wrapStart.isLt, Nat.shiftLeft_eq,
    Nat.shiftLeft_eq]
  omega

theorem mode_toNat (s : State) : (hostRead 0x03 s).toNat = if s.opnd.twoAnt then 1 else 0 := by
  change (((BitVec.ofBool s.opnd.twoAnt).setWidth 32).toNat) = _
  cases s.opnd.twoAnt <;> rfl

/-- A register narrower than 32 bits reads as its own value (R20). -/
theorem hostRead_toNat {n : Nat} {r : BitVec 6} {s : State} (hn : n ≤ 32) (x : BitVec n)
    (h : readReg s (hostReg r) = x.setWidth 32) : (hostRead r s).toNat = x.toNat := by
  rw [hostRead, h, BitVec.toNat_setWidth_of_le hn]

/-- Settles O8: the number picks the register of the map, and a narrow register is zero-extended. -/
theorem registerMapReadsEachRegister : Obligations.RegisterMapReadsEachRegister := by
  intro s
  have hprog (i : Fin 32) : (hostRead (BitVec.ofNat 6 (0x20 + i.val)) s).toNat = s.prog.words[i.val].toNat :=
    hostRead_toNat (by decide) s.prog.words[i.val] (by rw [hostReg_prog]; rfl)
  exact ⟨hostRead_toNat (by decide) s.cmd rfl, statusWord_toNat s, hostRead_toNat (by decide) s.warn rfl, mode_toNat s,
    hostRead_toNat (by decide) s.opnd.d0 rfl, hostRead_toNat (by decide) s.opnd.d1 rfl,
    rfl, rfl, rfl, rfl, rfl, rfl, rfl, rfl, rfl, rfl, rfl, rfl, rfl,
    hostRead_toNat (by decide) s.plan.rem0 rfl, hostRead_toNat (by decide) s.plan.a0 rfl,
    hostRead_toNat (by decide) s.plan.b0 rfl, rfl, hostRead_toNat (by decide) s.plan.rem1 rfl,
    hostRead_toNat (by decide) s.plan.a1 rfl, hostRead_toNat (by decide) s.plan.b1 rfl, rfl, rfl, rfl, rfl,
    progInfoWord_toNat s.prog, hprog⟩

/-- Reserved bits read 0 (R20, R36). -/
theorem hostRead_reservedBits (s : State) : hostRead 0x0F s = 0 ∧ (hostRead 0 s).toNat < 2 ^ 8 ∧
    (hostRead 1 s).toNat < 2 ^ 5 ∧ (hostRead 2 s).toNat < 2 ^ 7 ∧ (hostRead 3 s).toNat < 2 ∧
    (hostRead 4 s).toNat < 2 ^ 16 ∧ (hostRead 5 s).toNat < 2 ^ 16 ∧ (hostRead 0x1F s).toNat < 2 ^ 24 ∧
    (∀ r ∈ [0x14, 0x15, 0x16, 0x18, 0x19, 0x1A], (hostRead (BitVec.ofNat 6 r) s).toNat < 2 ^ 16) ∧
    ∀ i : Fin 32, (hostRead (BitVec.ofNat 6 (0x20 + i.val)) s).toNat < 2 ^ 16 := by
  obtain ⟨hcmd, hstatus, hwarn, hmode, hd0, hd1, -, -, -, -, -, -, -, -, -, -, -, -, -, hrem0, ha0, hb0, -, hrem1, ha1,
    hb1, -, -, -, -, hinfo, hprog⟩ := registerMapReadsEachRegister s
  refine ⟨rfl, hcmd ▸ s.cmd.isLt, ?_, hwarn ▸ s.warn.isLt, ?_, hd0 ▸ s.opnd.d0.isLt, hd1 ▸ s.opnd.d1.isLt, ?_, ?_,
    fun i => hprog i ▸ s.prog.words[i.val].isLt⟩
  · have := s.err.isLt
    rw [show (1 : BitVec 6) = 0x01 from rfl, hstatus]
    split <;> omega
  · rw [show (3 : BitVec 6) = 0x03 from rfl, hmode]
    split <;> decide
  · have := s.prog.len.isLt
    have := s.prog.wrapStart.isLt
    have := s.prog.wrapEnd.isLt
    omega
  · simp only [List.forall_mem_cons]
    exact ⟨hrem0 ▸ s.plan.rem0.isLt, ha0 ▸ s.plan.a0.isLt, hb0 ▸ s.plan.b0.isLt, hrem1 ▸ s.plan.rem1.isLt,
      ha1 ▸ s.plan.a1.isLt, hb1 ▸ s.plan.b1.isLt, by simp⟩

/-! What a write leaves (R36). -/

/-- A write leaves every operand register but its own. -/
theorem writeOpnd_other (o : OperandRegs) (v : BitVec 32) (a : HostReg) :
    (a ≠ .mode → (writeOpnd o v a).twoAnt = o.twoAnt) ∧ (a ≠ .d0 → (writeOpnd o v a).d0 = o.d0) ∧
    (a ≠ .d1 → (writeOpnd o v a).d1 = o.d1) ∧ (a ≠ .baud → (writeOpnd o v a).baud = o.baud) ∧
    (a ≠ .arg0 → (writeOpnd o v a).arg0 = o.arg0) ∧ (a ≠ .arg1 → (writeOpnd o v a).arg1 = o.arg1) ∧
    (a ≠ .arg2 → (writeOpnd o v a).arg2 = o.arg2) ∧ (a ≠ .arg3 → (writeOpnd o v a).arg3 = o.arg3) := by
  cases a <;> simp [writeOpnd]

/-- A write leaves the reading of every register but its own. -/
theorem readReg_write_other {a b : HostReg} (hab : a ≠ b) (s : State) (v : BitVec 32) :
    readReg (s.setOpnd (writeOpnd s.opnd v a)) b = readReg s b := by
  obtain ⟨hmode, hd0, hd1, hbaud, harg0, harg1, harg2, harg3⟩ := writeOpnd_other s.opnd v a
  cases b with
  | mode => simp only [readReg, State.setOpnd_opnd, hmode hab]
  | d0 => simp only [readReg, State.setOpnd_opnd, hd0 hab]
  | d1 => simp only [readReg, State.setOpnd_opnd, hd1 hab]
  | baud => exact hbaud hab
  | arg0 => exact harg0 hab
  | arg1 => exact harg1 hab
  | arg2 => exact harg2 hab
  | arg3 => exact harg3 hab
  | _ => rfl

/-- The read-write registers other than `CMD` (R21). -/
def operandRegs : List HostReg := [.mode, .d0, .d1, .baud, .arg0, .arg1, .arg2, .arg3]

/-- They stand at the numbers 3 to 10 (R21). -/
theorem hostReg_mem_operandRegs_iff (r : BitVec 6) : hostReg r ∈ operandRegs ↔ 3 ≤ r.toNat ∧ r.toNat ≤ 10 := by
  revert r; decide

/-- Every other register ignores a write. -/
theorem writeOpnd_readOnly {a : HostReg} (h : a ∉ operandRegs) (o : OperandRegs) (v : BitVec 32) :
    writeOpnd o v a = o := by
  cases a with
  | mode | d0 | d1 | baud | arg0 | arg1 | arg2 | arg3 => exact absurd (by decide) h
  | _ => rfl

theorem ofBool_getLsbD_zero (v : BitVec 32) : (BitVec.ofBool (v.getLsbD 0)).setWidth 32 = v &&& 1 := by
  ext i hi
  cases i <;> simp [BitVec.getElem_one]

theorem setWidth_low16 (v : BitVec 32) : (v.setWidth 16).setWidth 32 = v &&& 0xFFFF :=
  by
  apply BitVec.eq_of_toNat_eq
  rw [BitVec.toNat_setWidth_of_le (by decide), BitVec.toNat_setWidth, BitVec.toNat_and]
  exact (Nat.and_two_pow_sub_one_eq_mod v.toNat 16).symm

/-- What the written register reads afterwards: the low bits of its width, or, read-only, what it read before. -/
theorem hostRead_hostWrite_same (r : BitVec 6) (v : BitVec 32) (s : State) :
    hostRead r (hostWrite r v s) =
      if r = 3 then v &&& 1 else if r = 4 ∨ r = 5 then v &&& 0xFFFF
      else if 6 ≤ r.toNat ∧ r.toNat ≤ 10 then v else hostRead r s := by
  by_cases hop : 3 ≤ r.toNat ∧ r.toNat ≤ 10
  · have hr : r = 3 ∨ r = 4 ∨ r = 5 ∨ r = 6 ∨ r = 7 ∨ r = 8 ∨ r = 9 ∨ r = 10 := by bv_omega
    obtain rfl | rfl | rfl | rfl | rfl | rfl | rfl | rfl := hr
    · exact ofBool_getLsbD_zero v
    · exact setWidth_low16 v
    · exact setWidth_low16 v
    all_goals rfl
  · have hwrite : hostWrite r v s = s := by
      rw [hostWrite_eq, writeOpnd_readOnly ((hostReg_mem_operandRegs_iff r).not.2 hop)]
    rw [hwrite, if_neg (by rintro rfl; exact hop (by decide)),
      if_neg (by rintro (rfl | rfl) <;> exact hop (by decide)), if_neg (by omega)]

theorem hostRead_hostWrite_other {r r' : BitVec 6} (h : r' ≠ r) (v : BitVec 32) (s : State) :
    hostRead r' (hostWrite r v s) = hostRead r' s :=
  readReg_write_other (fun e => h (hostReg_injective e).symm) s v

/-- The script is no register. -/
@[simp] theorem hostRead_setScript (r : BitVec 6) (s : State) (l : List Action) :
    hostRead r (s.setScript l) = hostRead r s := by
  unfold hostRead
  cases hostReg r <;> rfl

/-! The steps (R22, R36). -/

theorem step_write {s : State} {r : BitVec 6} {v : BitVec 32} {rest : List Action} (hs : s.script = .write r v :: rest)
    (hr : r ≠ 0) : step s = .next (hostWrite r v (s.setScript rest)) :=
  step_settle ((issue_cons hs).trans (if_neg (mt (hostReg_eq_cmd_iff r).1 hr)))

theorem step_read {s : State} {r : BitVec 6} {rest : List Action} (hs : s.script = .read r :: rest) :
    step s = .next ((s.setScript rest).setRdata (hostRead r (s.setScript rest))) :=
  step_settle (issue_cons hs)

theorem step_command {s : State} {v : BitVec 32} {rest : List Action} {i : Instr} (hs : s.script = .write 0 v :: rest)
    (hi : decodeCmd (v.setWidth 8) = .ok i) : step s = exec i ((s.setScript rest).setCmd (v.setWidth 8)) := by
  have hcmd : actionIssue (.write 0 v) (s.setScript rest) = commandIssue (v.setWidth 8) (s.setScript rest) := by
    rw [actionIssue, if_pos ((hostReg_eq_cmd_iff 0).2 rfl)]
  exact step_run (((issue_cons hs).trans hcmd).trans (commandIssue_ok hi _))

/-- Settles O3. -/
theorem hostCommandStepRunsTheCommand : Obligations.HostCommandStepRunsTheCommand :=
  fun _ _ _ _ hs hi => step_command hs hi

/-- Settles O7: a write is an update of the operand registers, which only its own register shows; a read is an update of
`rdata`; reserved bits read 0. -/
theorem hostAccessHasNoOtherEffect : Obligations.HostAccessHasNoOtherEffect := by
  refine ⟨fun s r v rest hs hr => ?_, fun s r rest hs => ?_, hostRead_reservedBits⟩
  · refine ⟨_, step_write hs hr, rfl, fun r' hr' => ?_, ?_⟩
    · rw [hostRead_hostWrite_other hr', hostRead_setScript]
    · rw [hostRead_hostWrite_same, hostRead_setScript]
  · rw [step_read hs, hostRead_setScript]
    rfl

end Sys2Proof.Machine
end

section
/-! PROOFS. The frames of the two instruction families: commands keep the operands and the sequencer (O39), words change
the sequencer's working state alone (O40); and the invariant at reset (O2). -/

namespace Sys2Proof.Machine

/-- Settles O39: the frame that all commands share. -/
theorem commandsKeepOperandsAndSequencer : Obligations.CommandsKeepOperandsAndSequencer := by
  intro i s hi
  obtain ⟨t, ht, hkeeps⟩ := exec_command_keeps hi s
  exact ⟨t, ht, hkeeps.opnd, hkeeps.cmd, hkeeps.seq, hkeeps.cfg, hkeeps.script, hkeeps.rdata⟩

/-! Words (R41, R78, R181). -/

/-- `r` has the instruction store and the configuration of `q`: what no word of a program may change (R78, R196). -/
structure SetupKept (q r : Seq) : Prop where
  imem : r.imem = q.imem
  ss : r.ss = q.ss
  wrapStart : r.wrapStart = q.wrapStart
  wrapEnd : r.wrapEnd = q.wrapEnd
  running : r.running = q.running

theorem SetupKept.refl (q : Seq) : SetupKept q q := ⟨rfl, rfl, rfl, rfl, rfl⟩

theorem SetupKept.trans {q r u : Seq} (h : SetupKept q r) (k : SetupKept r u) : SetupKept q u :=
  ⟨k.imem.trans h.imem, k.ss.trans h.ss, k.wrapStart.trans h.wrapStart, k.wrapEnd.trans h.wrapEnd,
    k.running.trans h.running⟩

theorem SetupKept.finish {q r : Seq} (h : SetupKept q r) (dss next : BitVec 5) : SetupKept q (seqFinish dss next r) :=
  h.trans ⟨rfl, rfl, rfl, rfl, rfl⟩

theorem seqTake_setupKept {dir : ShiftDir} {n : Nat} {q r : Seq} {bits : BitVec 32}
    (h : seqTake dir n q = some (bits, r)) : SetupKept q r := by
  obtain ⟨o, c, f, d, rfl⟩ := seqTake_frame h
  exact ⟨rfl, rfl, rfl, rfl, rfl⟩

/-- An `OUT` word keeps the setup when its destination does, stalled or not. -/
theorem seqOut_setupKept (n : Nat) {dest : BitVec 32 → Seq → Seq} (hdest : ∀ bits q, SetupKept q (dest bits q))
    (dss : BitVec 5) (s : State) : ∃ q, seqOut n dest dss s = .next (s.setSeq q) ∧ SetupKept s.seq q := by
  obtain ⟨-, hstall⟩ | ⟨bits, q, htake, hnext⟩ := seqOut_cases n dest dss s
  · exact ⟨s.seq, hstall, .refl _⟩
  · exact ⟨_, hnext, ((seqTake_setupKept htake).trans (hdest bits q)).finish _ _⟩

/-- Every word goes on, changes the sequencer alone, and keeps its setup. -/
theorem exec_word_setupKept {i : Instr} (hi : i.isWord = true) (s : State) :
    ∃ q, exec i s = .next (s.setSeq q) ∧ SetupKept s.seq q := by
  cases i with
  | outNull | outY | outX =>
    refine seqOut_setupKept _ ?_ _ s
    exact fun _ _ => ⟨rfl, rfl, rfl, rfl, rfl⟩
  | jmpNotX | setY | setPins1 | setPins0 | nop | jmpYDec | jmp => exact ⟨_, rfl, rfl, rfl, rfl, rfl, rfl⟩
  | plan | synth | rcfg | encFreq | encDrate | encDev | encBw | decFreq | decDrate | decDev | decBw => cases hi

/-- Settles O40. -/
theorem wordsChangeTheSequencerOnly : Obligations.WordsChangeTheSequencerOnly := by
  intro i s hi
  obtain ⟨q, hq, hkept⟩ := exec_word_setupKept hi s
  exact ⟨_, hq, rfl, hkept.imem, hkept.ss, hkept.wrapStart, hkept.wrapEnd, hkept.running⟩

/-! Reset (R40, R313; logs 4, 5). -/

/-- The word 0x0000, which the store holds at reset, is `jmp 0`: legal wherever there is a word 0. -/
theorem zeroWord_legal {two : Bool} {n : Nat} (h : 0 < n) : wordLegal two n 0x0000 = true :=
  wordLegal_of_decode (i := .jmp 0 0) (by decide) rfl (decide_eq_true h)

theorem reset_seqInv : SeqInv Seq.reset := by
  refine ⟨fun i _ => ?_, by decide, by decide, by decide⟩
  rw [show Seq.reset.imem[i.val] = 0x0000 from Vector.getElem_replicate _]
  exact zeroWord_legal (by decide)

/-- Settles O2: the registers hold no program, and the store is `jmp 0` throughout. -/
theorem resetMeetsTheInvariant : Obligations.ResetMeetsTheInvariant :=
  ⟨⟨reset_mem_wf, by decide⟩, blockReset_programInv State.reset, reset_seqInv⟩

end Sys2Proof.Machine
end

section
/-! PROOFS. The registers PLAN and RCFG write hold the exact numbers of R122 to R125 and R211 to R214, within the bounds
of R43: O17. -/

namespace Sys2Proof.Machine

open Sys2Proof.Spec

/-- The rounding of `Timebase` is the integer formula of R123. -/
theorem baudAchieved_eq_achievedBaud (clk baud : Nat) : baudAchieved clk baud = achievedBaud clk baud := by
  unfold baudAchieved achievedBaud
  by_cases h : clk % baud = 0
  · rw [if_neg (not_not.2 h), if_pos h]
  · rw [if_pos h, if_neg h]; rfl

/-! The planner's registers (R29). -/

/-- The parts of a symbol's plan fit their registers: `fp` 32 bits, the others 16 (R29). -/
structure SymPlan.Fits (p : SymPlan) : Prop where
  fp : p.fp < 2 ^ 32
  rem : p.rem < 2 ^ 16
  a : p.a < 2 ^ 16
  b : p.b < 2 ^ 16

theorem symbolPlan_fits {total d : Nat} (htotal : total < 2 ^ 32) (h0 : 0 < d) (hd : d < 2 ^ 16) :
    (symbolPlan total d).Fits := by
  have hrem := symbolPlan_rem_lt total h0
  have hcorr := symbolPlan_correction total d
  exact ⟨Nat.lt_of_le_of_lt (Nat.div_le_self total d) htotal, by omega, by omega, by omega⟩

/-- A plan that fits is written without narrowing (R126). -/
theorem planRegs_toNat {tb : Timebase} {p0 p1 : SymPlan} (ht : tb.t < 2 ^ 32) (htotal : tb.total < 2 ^ 32)
    (hbaud : tb.baudAch < 2 ^ 32) (h0 : p0.Fits) (h1 : p1.Fits) :
    (planRegs tb p0 p1).t.toNat = tb.t ∧ (planRegs tb p0 p1).total.toNat = tb.total ∧
    (planRegs tb p0 p1).baud.toNat = tb.baudAch ∧
    (planRegs tb p0 p1).fp0.toNat = p0.fp ∧ (planRegs tb p0 p1).rem0.toNat = p0.rem ∧
    (planRegs tb p0 p1).a0.toNat = p0.a ∧ (planRegs tb p0 p1).b0.toNat = p0.b ∧
    (planRegs tb p0 p1).fp1.toNat = p1.fp ∧ (planRegs tb p0 p1).rem1.toNat = p1.rem ∧
    (planRegs tb p0 p1).a1.toNat = p1.a ∧ (planRegs tb p0 p1).b1.toNat = p1.b :=
  ⟨Nat.mod_eq_of_lt ht, Nat.mod_eq_of_lt htotal, Nat.mod_eq_of_lt hbaud,
    Nat.mod_eq_of_lt h0.fp, Nat.mod_eq_of_lt h0.rem, Nat.mod_eq_of_lt h0.a, Nat.mod_eq_of_lt h0.b,
    Nat.mod_eq_of_lt h1.fp, Nat.mod_eq_of_lt h1.rem, Nat.mod_eq_of_lt h1.a, Nat.mod_eq_of_lt h1.b⟩

/-! The RadioConfig's registers (R30). -/

/-- R43's bound on the bandwidth: `BAUD` is at most a quarter of the clock, the deviation half of the higher tone. -/
theorem rcMinBw_le {clk d0 d1 baud : Nat} (h0 : 2 ≤ d0) (h1 : 2 ≤ d1) (hb : 1 ≤ baud) (h4 : 4 ≤ clk / baud) :
    rcMinBw clk d0 d1 baud ≤ clk / 4 + clk := by
  have hbaud := baudAchieved_le hb h4
  have hdev := rcDeviation_le clk h0 h1
  have hclk : 4 ≤ clk := Nat.le_trans h4 (Nat.div_le_self clk baud)
  unfold rcMinBw
  omega

/-- With `CLOCK_HZ` in R43's range the derivation is written without narrowing (R216). -/
theorem radioCfgRegs_toNat {clk d0 d1 baud : Nat} (hclk : clk < 2 ^ 31) (h0 : 2 ≤ d0) (h1 : 2 ≤ d1) (hb : 1 ≤ baud)
    (h4 : 4 ≤ clk / baud) :
    (radioCfgRegs clk d0 d1 baud).baud.toNat = baudAchieved clk baud ∧
    (radioCfgRegs clk d0 d1 baud).center.toNat = rcCenter clk d0 d1 ∧
    (radioCfgRegs clk d0 d1 baud).dev.toNat = rcDeviation clk d0 d1 ∧
    (radioCfgRegs clk d0 d1 baud).minBw.toNat = rcMinBw clk d0 d1 baud := by
  have hbw := rcMinBw_le h0 h1 hb h4
  have hcenter := rcCenter_le clk h0 h1
  have hsum : rcMinBw clk d0 d1 baud = baudAchieved clk baud + 2 * rcDeviation clk d0 d1 := rfl
  exact ⟨Nat.mod_eq_of_lt (by omega), Nat.mod_eq_of_lt (by omega), Nat.mod_eq_of_lt (by omega),
    Nat.mod_eq_of_lt (by omega)⟩

/-- Settles O17: the results fit, so each register is its number; the bounds are those of the derivation's functions. -/
theorem resultsFitTheirRegisters : Obligations.ResultsFitTheirRegisters := by
  rintro s t u _ _ _ total f0 f1 center ⟨-, hclk, -⟩ hvalid ht hu rfl rfl rfl rfl rfl rfl rfl
  cases (execPlan_valid hvalid).symm.trans ht
  cases (execRcfg_valid hvalid).symm.trans hu
  obtain ⟨h0, h1, hb, h4⟩ := hvalid
  have hT : s.cfg.clockHz / s.opnd.baud.toNat ≤ s.cfg.clockHz := Nat.div_le_self _ _
  have htotal : s.cfg.clockHz / s.opnd.baud.toNat - 4 < 2 ^ 32 := by omega
  have hbaud := baudAchieved_le hb h4
  have hach := baudAchieved_eq_achievedBaud s.cfg.clockHz s.opnd.baud.toNat
  obtain ⟨pt, ptotal, pbaud, pfp0, prem0, pa0, pb0, pfp1, prem1, pa1, pb1⟩ :=
    planRegs_toNat (tb := timebase s.cfg.clockHz s.opnd.baud.toNat) (show _ / _ < _ by omega) htotal
      (show baudAchieved _ _ < _ by omega) (symbolPlan_fits htotal (by omega) s.opnd.d0.isLt)
      (symbolPlan_fits htotal (by omega) s.opnd.d1.isLt)
  obtain ⟨rbaud, rcenter, rdev, rbw⟩ := radioCfgRegs_toNat hclk h0 h1 hb h4
  have hdev := rcDeviation_le s.cfg.clockHz h0 h1
  exact ⟨pt, ptotal, pbaud.trans hach, pfp0, prem0, pa0, pb0, pfp1, prem1, pa1, pb1, rbaud.trans hach, rcenter, rdev,
    rbw.trans (by rw [rcMinBw, ← rbaud, ← rdev]; rfl), pt.trans_le hT, rcenter.trans_le (rcCenter_le _ h0 h1),
    rdev.trans_le (by omega), rbw.trans_le (rcMinBw_le h0 h1 hb h4), by omega⟩

end Sys2Proof.Machine
end

section
/-! PROOFS. Which flags a warning register holds (R34, R286): for each command's warnings once, then for every successful
command, O37. -/

namespace Sys2Proof.Machine

open Sys2Proof.Spec

/-- The seven flags of `w`, bit 0 first, are set exactly when these conditions hold (R34). -/
def FlagsAre (w : BitVec 7) (b0 b1 b2 b3 b4 b5 b6 : Prop) : Prop :=
  (w.getLsbD 0 = true ↔ b0) ∧ (w.getLsbD 1 = true ↔ b1) ∧ (w.getLsbD 2 = true ↔ b2) ∧ (w.getLsbD 3 = true ↔ b3) ∧
  (w.getLsbD 4 = true ↔ b4) ∧ (w.getLsbD 5 = true ↔ b5) ∧ (w.getLsbD 6 = true ↔ b6)

theorem FlagsAre.zero : FlagsAre 0 False False False False False False False := by simp [FlagsAre]

/-- A single flag, by its condition. -/
theorem FlagsAre.flagBit {k : Nat} (hk : k < 7) (b : Bool) :
    FlagsAre (flagBit k b) (b = true ∧ 0 = k) (b = true ∧ 1 = k) (b = true ∧ 2 = k) (b = true ∧ 3 = k)
      (b = true ∧ 4 = k) (b = true ∧ 5 = k) (b = true ∧ 6 = k) := by
  simp only [FlagsAre, flagBit_getLsbD hk, Bool.and_eq_true, decide_eq_true_eq, and_self]

/-- The union of two sets of warnings raises the flags of both. -/
theorem FlagsAre.or {v w : BitVec 7} {a0 a1 a2 a3 a4 a5 a6 b0 b1 b2 b3 b4 b5 b6 : Prop}
    (hv : FlagsAre v a0 a1 a2 a3 a4 a5 a6) (hw : FlagsAre w b0 b1 b2 b3 b4 b5 b6) :
    FlagsAre (v ||| w) (a0 ∨ b0) (a1 ∨ b1) (a2 ∨ b2) (a3 ∨ b3) (a4 ∨ b4) (a5 ∨ b5) (a6 ∨ b6) := by
  obtain ⟨v0, v1, v2, v3, v4, v5, v6⟩ := hv
  obtain ⟨w0, w1, w2, w3, w4, w5, w6⟩ := hw
  simp only [FlagsAre, BitVec.getLsbD_or, Bool.or_eq_true, v0, v1, v2, v3, v4, v5, v6, w0, w1, w2, w3, w4, w5, w6,
    and_self]

/-- The flags of PLAN (R120). -/
theorem timingWarn_flags (cfg : Config) (d0 d1 baud : Nat) : FlagsAre (timingWarn cfg d0 d1 baud)
    (d0 % 2 = 1) (d1 % 2 = 1) (cfg.clockHz % baud ≠ 0) False False False False := by
  have h := ((FlagsAre.flagBit (k := 0) (by decide) (d0 % 2 == 1)).or (.flagBit (k := 1) (by decide) (d1 % 2 == 1))).or
    (.flagBit (k := 2) (by decide) (cfg.clockHz % baud != 0))
  simpa [FlagsAre, timingWarn, wOddD0, wOddD1, wBaudAdj] using h

/-- The flags of the RadioConfig derivation (R215). -/
theorem radioCfgWarn_flags (cfg : Config) (dev d0 d1 : Nat) : FlagsAre (radioCfgWarn cfg dev d0 d1)
    False False False (cfg.devCeilA < dev) (cfg.devCeilB < dev) (d0 < d1) False := by
  have h := ((FlagsAre.flagBit (k := 3) (by decide) (decide (cfg.devCeilA < dev))).or
    (.flagBit (k := 4) (by decide) (decide (cfg.devCeilB < dev)))).or (.flagBit (k := 5) (by decide) (decide (d0 < d1)))
  simpa [FlagsAre, radioCfgWarn, wDevCeilA, wDevCeilB, wDivOrder] using h

/-- The flags of RCFG and SYNTH (R160, R210). -/
theorem derivationWarn_flags (cfg : Config) (d0 d1 baud : Nat) : FlagsAre (derivationWarn cfg d0 d1 baud)
    (d0 % 2 = 1) (d1 % 2 = 1) (cfg.clockHz % baud ≠ 0) (cfg.devCeilA < rcDeviation cfg.clockHz d0 d1)
    (cfg.devCeilB < rcDeviation cfg.clockHz d0 d1) (d0 < d1) False := by
  simpa only [derivationWarn, or_false, false_or] using (timingWarn_flags cfg d0 d1 baud).or (radioCfgWarn_flags cfg _ d0 d1)

/-- The one flag of an ENC command (R227). -/
theorem wQuant_flags (ach : Frac) (n : Nat) :
    FlagsAre (wQuant ach n) False False False False False False (ach.num ≠ n * ach.den) := by
  have h := FlagsAre.flagBit (k := 6) (by decide) (!ach.eqNat n)
  simpa [FlagsAre, wQuant, Frac.eqNat] using h

/-- The ceilings of ENC_DEV (R237). -/
theorem ceilingWarn_flags (cfg : Config) (d : Nat) : FlagsAre (ceilingWarn cfg d)
    False False False (cfg.devCeilA < d) (cfg.devCeilB < d) False False := by
  have h := (FlagsAre.flagBit (k := 3) (by decide) (decide (cfg.devCeilA < d))).or
    (.flagBit (k := 4) (by decide) (decide (cfg.devCeilB < d)))
  simpa [FlagsAre, ceilingWarn, wDevCeilA, wDevCeilB] using h

/-! What each command leaves in `WARN` when it succeeds. -/

theorem execPlan_ok {s t : State} (h : execPlan s = .next t) (hok : t.err = 0) :
    t.warn = timingWarn s.cfg s.opnd.d0.toNat s.opnd.d1.toNat s.opnd.baud.toNat := by
  by_cases hp : ParamsValid s
  · cases (execPlan_valid hp).symm.trans h; rfl
  · cases (execPlan_invalid hp).symm.trans h; exact absurd hok (show errParam ≠ 0 by decide)

theorem execRcfg_ok {s t : State} (h : execRcfg s = .next t) (hok : t.err = 0) : ParamsValid s ∧
    t.warn = derivationWarn s.cfg s.opnd.d0.toNat s.opnd.d1.toNat s.opnd.baud.toNat ∧
    t.rc = radioCfgRegs s.cfg.clockHz s.opnd.d0.toNat s.opnd.d1.toNat s.opnd.baud.toNat := by
  by_cases hp : ParamsValid s
  · cases (execRcfg_valid hp).symm.trans h; exact ⟨hp, rfl, rfl⟩
  · cases (execRcfg_invalid hp).symm.trans h; exact absurd hok (show errParam ≠ 0 by decide)

theorem execSynth_ok {s t : State} (h : execSynth s = .next t) (hok : t.err = 0) : ParamsValid s ∧
    t.warn = derivationWarn s.cfg s.opnd.d0.toNat s.opnd.d1.toNat s.opnd.baud.toNat ∧
    t.rc = radioCfgRegs s.cfg.clockHz s.opnd.d0.toNat s.opnd.d1.toNat s.opnd.baud.toNat := by
  by_cases hp : ParamsValid s
  · rcases Nat.lt_or_ge 32 (lengthOf s) with hn | hn
    · cases (execSynth_tooLong hp hn).symm.trans h; exact absurd hok (show errCapacity ≠ 0 by decide)
    · cases (execSynth_commit hp hn).symm.trans h; exact ⟨hp, rfl, rfl⟩
  · cases (execSynth_invalid hp).symm.trans h; exact absurd hok (show errParam ≠ 0 by decide)

/-- RCFG and SYNTH raise the flags of the derivation, on the deviation they leave in `RC_DEV` (R215). -/
theorem derivation_flags {s t : State} (hclk : s.cfg.clockHz < 2 ^ 31) (hp : ParamsValid s)
    (hwarn : t.warn = derivationWarn s.cfg s.opnd.d0.toNat s.opnd.d1.toNat s.opnd.baud.toNat)
    (hrc : t.rc = radioCfgRegs s.cfg.clockHz s.opnd.d0.toNat s.opnd.d1.toNat s.opnd.baud.toNat) :
    FlagsAre t.warn (s.opnd.d0.toNat % 2 = 1) (s.opnd.d1.toNat % 2 = 1) (s.cfg.clockHz % s.opnd.baud.toNat ≠ 0)
      (s.cfg.devCeilA < t.rc.dev.toNat) (s.cfg.devCeilB < t.rc.dev.toNat) (s.opnd.d0.toNat < s.opnd.d1.toNat)
      False := by
  obtain ⟨h0, h1, hb, h4⟩ := hp
  obtain ⟨-, -, hdev, -⟩ := radioCfgRegs_toNat hclk h0 h1 hb h4
  rw [hwarn, hrc, hdev]
  exact derivationWarn_flags ..

/-- What an ENC command leaves in `WARN`, `RES2` and `RES3`: its warnings, and its fields when they fit (R228). -/
theorem encReport {t u : State} {w : BitVec 7} {target : BitVec 32} {ach : Frac} {f2 f3 : Nat}
    (h : .next (succeed w (u.setRes (encResult target ach f2 f3))) = (.next t : Result)) (h2 : f2 < 2 ^ 32)
    (h3 : f3 < 2 ^ 32) : t.warn = w ∧ t.res.r2.toNat = f2 ∧ t.res.r3.toNat = f3 := by
  cases h
  exact ⟨rfl, Nat.mod_eq_of_lt h2, Nat.mod_eq_of_lt h3⟩

theorem execEncFreq_flags {s t : State} (h : execEncFreq s = .next t) :
    FlagsAre t.warn False False False False False False
      (s.cfg.fRef * (4 * t.res.r2.toNat + 256 + t.res.r3.toNat) ≠ s.opnd.arg0.toNat * 2 ^ 18) := by
  obtain ⟨h2, h3⟩ := freqFields_lt s.cfg.fRef s.opnd.arg0.toNat
  obtain ⟨hwarn, hr2, hr3⟩ := encReport h (h2.trans (by decide)) (h3.trans (by decide))
  rw [hwarn, hr2, hr3]
  simpa only [freqValue, one_mul, pow_zero, mul_one, ← Nat.add_assoc] using
    wQuant_flags (freqValue s.cfg.fRef (freqFields s.cfg.fRef s.opnd.arg0.toNat).1 1
      (freqFields s.cfg.fRef s.opnd.arg0.toNat).2 0) s.opnd.arg0.toNat

theorem execEncDrate_flags {s t : State} (h : execEncDrate s = .next t) :
    FlagsAre t.warn False False False False False False
      (s.cfg.fRef * (256 + t.res.r3.toNat) * 2 ^ t.res.r2.toNat ≠ s.opnd.arg0.toNat * 2 ^ 28) := by
  obtain ⟨h2, h3⟩ := drateFields_le s.cfg.fRef s.opnd.arg0.toNat
  obtain ⟨hwarn, hr2, hr3⟩ := encReport h (h2.trans_lt (by decide)) (h3.trans_lt (by decide))
  rw [hwarn, hr2, hr3]
  exact wQuant_flags ..

/-- ENC_DEV adds the ceilings, on the requested deviation (R237). -/
theorem execEncDev_flags {s t : State} (h : execEncDev s = .next t) :
    FlagsAre t.warn False False False (s.cfg.devCeilA < s.opnd.arg0.toNat) (s.cfg.devCeilB < s.opnd.arg0.toNat) False
      (s.cfg.fRef * (8 + t.res.r3.toNat) * 2 ^ t.res.r2.toNat ≠ s.opnd.arg0.toNat * 2 ^ 17) := by
  obtain ⟨h2, h3⟩ := devFields_le s.cfg.fRef s.opnd.arg0.toNat
  obtain ⟨hwarn, hr2, hr3⟩ := encReport h (h2.trans_lt (by decide)) (h3.trans_lt (by decide))
  rw [hwarn, hr2, hr3]
  simpa only [devValue, or_false, false_or] using
    (wQuant_flags (devValue s.cfg.fRef (devFields s.cfg.fRef s.opnd.arg0.toNat).1
      (devFields s.cfg.fRef s.opnd.arg0.toNat).2) s.opnd.arg0.toNat).or (ceilingWarn_flags s.cfg s.opnd.arg0.toNat)

theorem execEncBw_flags {s t : State} (h : execEncBw s = .next t) :
    FlagsAre t.warn False False False False False False
      (s.cfg.fRef ≠ s.opnd.arg0.toNat * (8 * (4 + t.res.r3.toNat) * 2 ^ t.res.r2.toNat)) := by
  obtain ⟨h2, h3⟩ := bwFields_le s.cfg.fRef s.opnd.arg0.toNat
  obtain ⟨hwarn, hr2, hr3⟩ := encReport h (h2.trans_lt (by decide)) (h3.trans_lt (by decide))
  rw [hwarn, hr2, hr3]
  exact wQuant_flags ..

/-- Settles O37: case by case, a command's own flags are the ones the statement lists for it, and it raises no other. -/
theorem warnHoldsExactlyTheCommandsFlags : Obligations.WarnHoldsExactlyTheCommandsFlags := by
  rintro i s t _ hi ⟨-, hclk, -⟩ h hok rfl
  cases i with
  | plan => simpa [FlagsAre, timingCommands, quantized, execPlan_ok h hok] using timingWarn_flags s.cfg ..
  | synth =>
    obtain ⟨hp, hwarn, hrc⟩ := execSynth_ok h hok
    simpa [FlagsAre, timingCommands, quantized] using derivation_flags hclk hp hwarn hrc
  | rcfg =>
    obtain ⟨hp, hwarn, hrc⟩ := execRcfg_ok h hok
    simpa [FlagsAre, timingCommands, quantized] using derivation_flags hclk hp hwarn hrc
  | encFreq => simpa [FlagsAre, timingCommands, quantized] using execEncFreq_flags h
  | encDrate => simpa [FlagsAre, timingCommands, quantized] using execEncDrate_flags h
  | encDev => simpa [FlagsAre, timingCommands, quantized] using execEncDev_flags h
  | encBw => simpa [FlagsAre, timingCommands, quantized] using execEncBw_flags h
  | decFreq | decDrate | decDev | decBw =>
    cases h
    simp [timingCommands, quantized, decodeTo_eq]
  | outNull | outY | outX | jmpNotX | setY | setPins1 | setPins0 | nop | jmpYDec | jmp => cases hi

end Sys2Proof.Machine
end

section
/-! PROOFS. What a step does at the radio port: from the one lemma that says so, O52, that every step keeps the radio's
registers canonical and `ERR` a listed code, and O42, that only an ENC command or the platform reaches the radio; then
the platform's two actions (O56), and the sequencer's step (O4). -/

namespace Sys2Proof.Machine

open Sys2Proof.Spec

/-! Away from the port: no transaction, the radio as it was (R66, R74). -/

theorem errOk_listed : errOk.toNat ≤ 3 := by decide

/-- `t` has the radio of `s` and no transaction more, and its `ERR` is that of `s` or a code of R281. -/
structure PortQuiet (s t : State) : Prop where
  radio : t.radio = s.radio
  trace : t.trace = s.trace
  err : t.err = s.err ∨ t.err.toNat ≤ 3

namespace PortQuiet

variable {s t u : State}

theorem refl (s : State) : PortQuiet s s := ⟨rfl, rfl, .inl rfl⟩

theorem trans (h : PortQuiet s t) (k : PortQuiet t u) : PortQuiet s u :=
  ⟨k.radio.trans h.radio, k.trace.trans h.trace, k.err.elim (fun e => e ▸ h.err) .inr⟩

theorem inv (h : PortQuiet s t) (hs : PortInv s) : PortInv t := by
  obtain ⟨hmem, herr⟩ := hs
  exact ⟨h.radio ▸ hmem, h.err.elim (fun e => e ▸ herr) id⟩

theorem setScript (s : State) (l : List Action) : PortQuiet s (s.setScript l) := ⟨rfl, rfl, .inl rfl⟩

theorem setSeq (s : State) (q : Seq) : PortQuiet s (s.setSeq q) := ⟨rfl, rfl, .inl rfl⟩

theorem raiseHard (s : State) {code : BitVec 4} (h : code.toNat ≤ 3) : PortQuiet s (raiseHard code s) :=
  ⟨rfl, rfl, .inr h⟩

end PortQuiet

theorem execPlan_quiet (s : State) : ∃ t, execPlan s = .next t ∧ PortQuiet s t := by
  by_cases hp : ParamsValid s
  · exact ⟨_, execPlan_valid hp, rfl, rfl, .inr errOk_listed⟩
  · exact ⟨_, execPlan_invalid hp, .raiseHard s (by decide)⟩

theorem execRcfg_quiet (s : State) : ∃ t, execRcfg s = .next t ∧ PortQuiet s t := by
  by_cases hp : ParamsValid s
  · exact ⟨_, execRcfg_valid hp, rfl, rfl, .inr errOk_listed⟩
  · exact ⟨_, execRcfg_invalid hp, .raiseHard s (by decide)⟩

theorem execSynth_quiet (s : State) : ∃ t, execSynth s = .next t ∧ PortQuiet s t := by
  by_cases hp : ParamsValid s
  · rcases Nat.lt_or_ge 32 (lengthOf s) with hn | hn
    · exact ⟨_, execSynth_tooLong hp hn, .raiseHard s (by decide)⟩
    · exact ⟨_, execSynth_commit hp hn, rfl, rfl, .inr errOk_listed⟩
  · exact ⟨_, execSynth_invalid hp, .raiseHard s (by decide)⟩

/-- No instruction but an ENC command reaches the radio. -/
theorem exec_quiet {i : Instr} (hi : i ∉ encCommands) (s : State) : ∃ t, exec i s = .next t ∧ PortQuiet s t := by
  cases hw : i.isWord with
  | true =>
    obtain ⟨q, hq⟩ := exec_word_setSeq hw s
    exact ⟨_, hq, .setSeq s q⟩
  | false =>
    cases i with
    | plan => exact execPlan_quiet s
    | synth => exact execSynth_quiet s
    | rcfg => exact execRcfg_quiet s
    | encFreq | encDrate | encDev | encBw => exact absurd (by decide) hi
    | decFreq | decDrate | decDev | decBw => exact ⟨_, rfl, rfl, rfl, .inr errOk_listed⟩
    | outNull | outY | outX | jmpNotX | setY | setPins1 | setPins0 | nop | jmpYDec | jmp => cases hw

/-! At the port: each transaction keeps the invariant (R67, R68). -/

namespace PortInv

variable {s : State}

theorem strobe (h : PortInv s) (c : BitVec 8) : PortInv (radioStrobe c s) := ⟨radioStrobe_wf c h.1, h.2⟩

theorem write (h : PortInv s) (a v : BitVec 8) : PortInv (radioWrite a v s) := ⟨radioWrite_wf a v h.1, h.2⟩

theorem modify (h : PortInv s) (a m f : BitVec 8) : PortInv (radioModify a m f s) := ⟨radioModify_wf a m f h.1, h.2⟩

theorem preset (h : PortInv s) (a v : BitVec 8) : PortInv (radioPreset a v s) := ⟨radioPreset_wf a v h.1, h.2⟩

theorem resume (h : PortInv s) : PortInv (radioResume s) := h

/-- An ENC command's end: its results, then success (R228, R245). -/
theorem report (h : PortInv s) (r : ResultRegs) (w : BitVec 7) : PortInv (succeed w (s.setRes r)) :=
  ⟨h.1, errOk_listed⟩

end PortInv

theorem freqTransactions_portInv {s : State} (h : PortInv s) (freq m : Nat) : PortInv (freqTransactions freq m s) :=
  ((((((h.strobe _).write _ _).write _ _).write _ _).write _ _).modify _ _ _).write _ _

theorem drateTransactions_portInv {s : State} (h : PortInv s) (e m : Nat) : PortInv (drateTransactions e m s) :=
  ((h.strobe _).modify _ _ _).write _ _

theorem devTransactions_portInv {s : State} (h : PortInv s) (e m : Nat) : PortInv (devTransactions e m s) :=
  (h.strobe _).modify _ _ _

theorem bwTransactions_portInv {s : State} (h : PortInv s) (e m : Nat) : PortInv (bwTransactions e m s) :=
  (h.strobe _).modify _ _ _

theorem exec_enc_portInv {i : Instr} (hi : i ∈ encCommands) {s : State} (h : PortInv s) :
    ∃ t, exec i s = .next t ∧ PortInv t := by
  simp only [encCommands, List.mem_cons, List.not_mem_nil, or_false] at hi
  obtain rfl | rfl | rfl | rfl := hi
  · exact ⟨_, rfl, (freqTransactions_portInv h _ _).report _ _⟩
  · exact ⟨_, rfl, (drateTransactions_portInv h _ _).report _ _⟩
  · exact ⟨_, rfl, (devTransactions_portInv h _ _).report _ _⟩
  · exact ⟨_, rfl, (bwTransactions_portInv h _ _).report _ _⟩

/-! Steps. -/

theorem issue_run_quiet {s u : State} {i : Instr} (h : issue s = .run i u) : PortQuiet s u := by
  obtain ⟨r, v, rest, -, -, -, rfl⟩ | ⟨-, -, -, ⟨-, rfl⟩ | ⟨rest, -, rfl⟩⟩ := issue_run_cases h
  · exact ⟨rfl, rfl, .inl rfl⟩
  · exact .refl _
  · exact .setScript s rest

theorem encCommands_isWord : ∀ i ∈ encCommands, i.isWord = false := by decide

theorem encCommands_code :
    ∀ i ∈ encCommands, ∀ c : Byte, decodeCmd c = .ok i → c ∈ [(0x10 : BitVec 8), 0x11, 0x12, 0x13] := by decide

/-- An ENC command is issued by the host's write of its code alone (R22). -/
theorem issue_run_enc {s u : State} {i : Instr} (hi : i ∈ encCommands) (h : issue s = .run i u) :
    ∃ v rest, s.script = .write 0 v :: rest ∧ v.setWidth 8 ∈ [(0x10 : BitVec 8), 0x11, 0x12, 0x13] := by
  obtain ⟨r, v, rest, hs, rfl, hd, -⟩ | ⟨-, -, hw, -⟩ := issue_run_cases h
  · exact ⟨v, rest, hs, encCommands_code i hi _ hd⟩
  · exact absurd ((encCommands_isWord i hi).symm.trans (decodeSeq_isWord hw)) (by decide)

/-- Of the actions that run no instruction, only the platform's two reach the radio (R317, R325). -/
theorem actionIssue_settle_port {a : Action} {s t : State} (h : actionIssue a s = .settle (.next t)) :
    PortQuiet s t ∨ (∃ b v, a = .radioPreset b v ∧ t = radioPreset b v s) ∨ a = .radioResume ∧ t = radioResume s := by
  obtain ⟨q, rfl⟩ | ⟨v, -, rfl⟩ | ⟨r, v, -, -, rfl⟩ | ⟨r, -, rfl⟩ | ⟨-, rfl⟩ | hplatform := actionIssue_settle_next h
  · exact .inl (.setSeq s q)
  · exact .inl ⟨rfl, rfl, .inr (show errCmd.toNat ≤ 3 by decide)⟩
  · exact .inl ⟨rfl, rfl, .inl rfl⟩
  · exact .inl ⟨rfl, rfl, .inl rfl⟩
  · exact .inl ⟨rfl, rfl, .inr errOk_listed⟩
  · exact .inr hplatform

theorem issue_settle_port {s t : State} (h : issue s = .settle (.next t)) :
    PortQuiet s t ∨ (∃ a v rest, s.script = .radioPreset a v :: rest ∧ t = radioPreset a v (s.setScript rest)) ∨
    ∃ rest, s.script = .radioResume :: rest ∧ t = radioResume (s.setScript rest) := by
  cases hs : s.script with
  | nil =>
    rw [issue_nil hs] at h
    obtain ⟨q, rfl⟩ := cycleIssue_settle_next h
    exact .inl (.setSeq s q)
  | cons a rest =>
    rw [issue_cons hs] at h
    obtain hquiet | ⟨b, v, rfl, rfl⟩ | ⟨rfl, rfl⟩ := actionIssue_settle_port h
    · exact .inl ((PortQuiet.setScript s rest).trans hquiet)
    · exact .inr (.inl ⟨b, v, rest, rfl, rfl⟩)
    · exact .inr (.inr ⟨rest, rfl, rfl⟩)

/-- What a step does at the port: nothing, an ENC command's transactions, which keep the invariant, or one of the
platform's two actions (R66, R74; log 16). -/
theorem step_port_cases {s t : State} (h : step s = .next t) :
    PortQuiet s t ∨
    ((∃ v rest, s.script = .write 0 v :: rest ∧ v.setWidth 8 ∈ [(0x10 : BitVec 8), 0x11, 0x12, 0x13]) ∧
      (PortInv s → PortInv t)) ∨
    (∃ a v rest, s.script = .radioPreset a v :: rest ∧ t = radioPreset a v (s.setScript rest)) ∨
    ∃ rest, s.script = .radioResume :: rest ∧ t = radioResume (s.setScript rest) := by
  obtain ⟨i, u, hrun, hexec⟩ | hsettle := step_next_cases h
  · have hissued := issue_run_quiet hrun
    by_cases hi : i ∈ encCommands
    · refine .inr (.inl ⟨issue_run_enc hi hrun, fun hs => ?_⟩)
      obtain ⟨w, hw, hinv⟩ := exec_enc_portInv hi (hissued.inv hs)
      cases hw.symm.trans hexec
      exact hinv
    · obtain ⟨w, hw, hquiet⟩ := exec_quiet hi u
      cases hw.symm.trans hexec
      exact .inl (hissued.trans hquiet)
  · exact (issue_settle_port hsettle).imp_right .inr

/-- Settles O52: away from the port memory stays and `ERR` is listed, and each of the three ways to the radio keeps it
canonical. -/
theorem everyStepKeepsMemoryCanonicalAndErrListed : Obligations.EveryStepKeepsMemoryCanonicalAndErrListed := by
  intro s t hinv h
  obtain hquiet | ⟨-, henc⟩ | ⟨a, v, rest, -, rfl⟩ | ⟨rest, -, rfl⟩ := step_port_cases h
  · exact hquiet.inv hinv
  · exact henc hinv
  · exact ((PortQuiet.setScript s rest).inv hinv).preset a v
  · exact ((PortQuiet.setScript s rest).inv hinv).resume

/-- Settles O42. -/
theorem onlyEncCommandsUseTheRadioPort : Obligations.OnlyEncCommandsUseTheRadioPort := by
  intro s t h
  obtain hquiet | ⟨henc, -⟩ | ⟨a, v, rest, hs, rfl⟩ | ⟨rest, hs, rfl⟩ := step_port_cases h
  · exact .inr ⟨hquiet.trace, .inl hquiet.radio⟩
  · exact .inl henc
  · exact .inr ⟨rfl, .inr (.inl ⟨a, v, rest, hs⟩)⟩
  · exact .inr ⟨rfl, .inr (.inr ⟨rest, hs⟩)⟩

/-! The platform's actions on the radio (R317, R325). -/

theorem step_radioPreset {s : State} {a v : BitVec 8} {rest : List Action} (hs : s.script = .radioPreset a v :: rest) :
    step s = .next (radioPreset a v (s.setScript rest)) := step_settle (issue_cons hs)

theorem step_radioResume {s : State} {rest : List Action} (hs : s.script = .radioResume :: rest) :
    step s = .next (radioResume (s.setScript rest)) := step_settle (issue_cons hs)

theorem radioValue_preset_same (a v : BitVec 8) {s : State} (h : Memory.wf s.radio.mem = true) :
    radioValue a (radioPreset a v s) = v := radioValue_write_same a v h

theorem radioValue_preset_other {a b : BitVec 8} (h : a ≠ b) (v : BitVec 8) (s : State) :
    radioValue b (radioPreset a v s) = radioValue b s := radioValue_write_other h v s

/-- Settles O56: a preset leaves in the registers what a write of the block leaves there. -/
theorem platformActionsOnTheRadio : Obligations.PlatformActionsOnTheRadio := by
  refine fun s rest => ⟨fun a v hwf hs => ?_, fun hs => step_radioResume hs⟩
  have hwf' : Memory.wf (s.setScript rest).radio.mem = true := hwf
  refine ⟨_, step_radioPreset hs, rfl, radioPreset_wf a v hwf', radioValue_preset_same a v hwf', fun b hb => ?_⟩
  exact radioValue_preset_other (fun e => hb (List.mem_singleton.2 e.symm)) v (s.setScript rest)

/-! The sequencer's step (R182). -/

/-- Settles O4: with no action pending the step is a cycle, and so it is when a cycle is the next action. -/
theorem sequencerStepRunsTheWordAtPc : Obligations.SequencerStepRunsTheWordAtPc := by
  intro s i hrun hdly hword
  refine ⟨fun hs => ?_, fun rest hs => ?_⟩
  · exact step_run ((issue_nil hs).trans (cycleIssue_word hrun hdly hword))
  · have hcycle : cycleIssue (s.setScript rest) = .run i (s.setScript rest) := cycleIssue_word hrun hdly hword
    exact step_run ((issue_cons hs).trans hcycle)

end Sys2Proof.Machine
end

section
/-! PROOFS. The encodings: the fields of a word built from fields and a word rebuilt from its own; then that decoding and
encoding are inverse (O9, O10), which words the decoder accepts (O11, O12), what becomes of a code or word that is no
instruction (O6, O48), and the words of a chain (O23). -/

namespace Sys2Proof

/-! The fields of a word (R94): the field functions read out what `packWord` puts in, and the fields are all of it. -/

section Fields

variable (op sel : BitVec 3) (dss low : BitVec 5) (w : Word16)

@[simp] theorem fieldOp_packWord : fieldOp (packWord op dss sel low) = op := by
  apply BitVec.eq_of_getLsbD_eq
  intro i hi
  rw [fieldOp, BitVec.getLsbD_extractLsb', packWord_getLsbD]
  simp [hi, show ¬ 13 + i < 5 by omega, show ¬ 13 + i < 8 by omega]

@[simp] theorem fieldDss_packWord : fieldDss (packWord op dss sel low) = dss := by
  apply BitVec.eq_of_getLsbD_eq
  intro i hi
  rw [fieldDss, BitVec.getLsbD_extractLsb', packWord_getLsbD]
  simp [hi, show ¬ 8 + i < 5 by omega, show 8 + i < 13 by omega]

@[simp] theorem fieldSel_packWord : fieldSel (packWord op dss sel low) = sel := by
  apply BitVec.eq_of_getLsbD_eq
  intro i hi
  rw [fieldSel, BitVec.getLsbD_extractLsb', packWord_getLsbD]
  simp [hi, show 5 + i < 8 by omega]

@[simp] theorem fieldLow_packWord : fieldLow (packWord op dss sel low) = low := by
  apply BitVec.eq_of_getLsbD_eq
  intro i hi
  rw [fieldLow, BitVec.getLsbD_extractLsb', packWord_getLsbD]
  simp [hi]

theorem packWord_fields : packWord (fieldOp w) (fieldDss w) (fieldSel w) (fieldLow w) = w := by
  apply BitVec.eq_of_getLsbD_eq
  intro i hi
  rw [packWord_getLsbD, fieldOp, fieldDss, fieldSel, fieldLow]
  interval_cases i <;> simp

end Fields

/-- A word whose fixed fields are known is the encoding built from them and its own `dss`. -/
theorem packWord_eq {w : Word16} {op sel : BitVec 3} {low : BitVec 5} (hop : fieldOp w = op) (hsel : fieldSel w = sel)
    (hlow : fieldLow w = low) : packWord op (fieldDss w) sel low = w := by
  rw [← hop, ← hsel, ← hlow, packWord_fields]

/-! Decoding undoes encoding (R92, R101). -/

/-- Settles O9: a command's code is its own case of the decoder; a word's family and row are read off its fields. -/
theorem decodeOfEncodeIsTheInstruction : Obligations.DecodeOfEncodeIsTheInstruction := by
  intro i
  cases i with
  | plan | synth | rcfg | encFreq | encDrate | encDev | encBw | decFreq | decDrate | decDev | decBw => rfl
  | outNull | outY | outX => simp [encode, decode, decodeSeq, decodeOut]
  | jmpNotX | jmpYDec | jmp => simp [encode, decode, decodeSeq, decodeJmp]
  | setY | setPins1 | setPins0 => simp [encode, decode, decodeSeq, decodeSet]
  | nop => simp [encode, decode, decodeSeq, decodeMov]

theorem decodeSeq_of_encode {i : Instr} {w : Word16} (h : encode i = .seq16 w) : decodeSeq w = .ok i := by
  have hround := decodeOfEncodeIsTheInstruction i
  rwa [h] at hround

/-! Encoding undoes decoding (R94, R97 to R100): family by family, each accepting branch names the fields it tested. -/

section Inverse

variable {w : Word16} {i : Instr}

theorem encode_of_decodeCmd {c : Byte} (h : decodeCmd c = .ok i) : encode i = .cmd8 c := by
  unfold decodeCmd at h
  repeat' split at h
  all_goals cases h <;> subst c <;> rfl

theorem encode_of_decodeJmp (hop : fieldOp w = 0b000) (h : decodeJmp w = .ok i) : encode i = .seq16 w := by
  unfold decodeJmp at h
  split_ifs at h with hjmp hnotX hyDec <;> cases h
  · exact congrArg _ (packWord_eq hop hjmp rfl)
  · exact congrArg _ (packWord_eq hop hnotX rfl)
  · exact congrArg _ (packWord_eq hop hyDec rfl)

theorem encode_of_decodeOut (hop : fieldOp w = 0b011) (h : decodeOut w = .ok i) : encode i = .seq16 w := by
  unfold decodeOut at h
  split_ifs at h with hnull hy hx <;> cases h
  · exact congrArg _ (packWord_eq hop hnull.1 hnull.2)
  · exact congrArg _ (packWord_eq hop hy.1 hy.2)
  · exact congrArg _ (packWord_eq hop hx.1 hx.2)

theorem encode_of_decodeMov (hop : fieldOp w = 0b101) (h : decodeMov w = .ok i) : encode i = .seq16 w := by
  unfold decodeMov at h
  split_ifs at h with hnop
  cases h
  exact congrArg _ (packWord_eq hop hnop.1 hnop.2)

theorem encode_of_decodeSet (hop : fieldOp w = 0b111) (h : decodeSet w = .ok i) : encode i = .seq16 w := by
  unfold decodeSet at h
  split_ifs at h with hy hpins1 hpins0 <;> cases h
  · exact congrArg _ (packWord_eq hop hy rfl)
  · exact congrArg _ (packWord_eq hop hpins1.1 hpins1.2)
  · exact congrArg _ (packWord_eq hop hpins0.1 hpins0.2)

theorem encode_of_decodeSeq (h : decodeSeq w = .ok i) : encode i = .seq16 w := by
  unfold decodeSeq at h
  split_ifs at h with hjmp hout hmov hset
  · exact encode_of_decodeJmp hjmp h
  · exact encode_of_decodeOut hout h
  · exact encode_of_decodeMov hmov h
  · exact encode_of_decodeSet hset h

end Inverse

/-- Settles O10, format by format. -/
theorem encodeOfDecodeIsTheCode : Obligations.EncodeOfDecodeIsTheCode := by
  intro c i h
  cases c with
  | cmd8 c => exact encode_of_decodeCmd h
  | seq16 w => exact encode_of_decodeSeq h

/-! Which words decode (R107, R113). -/

/-- Every encoding has the fixed bits of its instruction's row (R113). -/
theorem encode_rowShape (i : Instr) : Laws.RowShape.Statement i := by
  cases i with
  | plan | synth | rcfg | encFreq | encDrate | encDev | encBw | decFreq | decDrate | decDev | decBw => rfl
  | outNull | outY | outX | setPins1 | setPins0 | nop => exact Laws.RowShape.packWord_mask_full _ _ _ _
  | jmpNotX | setY | jmpYDec | jmp => exact Laws.RowShape.packWord_mask_operand _ _ _ _

theorem rowOf_mem_seqRows {i : Instr} (h : i.isWord = true) : rowOf i ∈ seqRows := by
  cases i with
  | plan | synth | rcfg | encFreq | encDrate | encDev | encBw | decFreq | decDrate | decDev | decBw => cases h
  | outNull | outY | outX | jmpNotX | setY | setPins1 | setPins0 | nop | jmpYDec | jmp => simp [rowOf, seqRows]

/-- A word with the fixed bits of a row without a free operand is that row's word for its `dss`. -/
theorem packWord_of_mask_full {w : Word16} {op sel : BitVec 3} {low : BitVec 5}
    (h : w &&& 0xE0FF = packWord op 0 sel low) : packWord op (fieldDss w) sel low = w := by
  rw [← packWord_fields w, Laws.RowShape.packWord_mask_full] at h
  exact packWord_eq (by simpa using congrArg fieldOp h) (by simpa using congrArg fieldSel h)
    (by simpa using congrArg fieldLow h)

/-- The same for a row whose low five bits are an operand. -/
theorem packWord_of_mask_operand {w : Word16} {op sel : BitVec 3} (h : w &&& 0xE0E0 = packWord op 0 sel 0) :
    packWord op (fieldDss w) sel (fieldLow w) = w := by
  rw [← packWord_fields w, Laws.RowShape.packWord_mask_operand] at h
  exact packWord_eq (by simpa using congrArg fieldOp h) (by simpa using congrArg fieldSel h) rfl

/-- A word that matches a row of the table is an instruction's encoding: the row's, for the operands in the word. -/
theorem exists_encode_of_row {w : Word16} {r : Word16 × Word16} (hr : r ∈ seqRows) (hw : w &&& r.2 = r.1) :
    ∃ i, encode i = .seq16 w := by
  simp only [seqRows, List.mem_cons, List.not_mem_nil, or_false] at hr
  obtain rfl | rfl | rfl | rfl | rfl | rfl | rfl | rfl | rfl | rfl := hr
  · exact ⟨.outNull _, congrArg _ (packWord_of_mask_full hw)⟩
  · exact ⟨.outY _, congrArg _ (packWord_of_mask_full hw)⟩
  · exact ⟨.outX _, congrArg _ (packWord_of_mask_full hw)⟩
  · exact ⟨.jmpNotX _ _, congrArg _ (packWord_of_mask_operand hw)⟩
  · exact ⟨.setY _ _, congrArg _ (packWord_of_mask_operand hw)⟩
  · exact ⟨.setPins1 _, congrArg _ (packWord_of_mask_full hw)⟩
  · exact ⟨.setPins0 _, congrArg _ (packWord_of_mask_full hw)⟩
  · exact ⟨.nop _, congrArg _ (packWord_of_mask_full hw)⟩
  · exact ⟨.jmpYDec _ _, congrArg _ (packWord_of_mask_operand hw)⟩
  · exact ⟨.jmp _ _, congrArg _ (packWord_of_mask_operand hw)⟩

/-- Settles O11: a decoded word is the encoding of its instruction, which has its row's shape; and a word of a row is an
encoding, which decodes. -/
theorem decoderAcceptsExactlyTheTableRows : Obligations.DecoderAcceptsExactlyTheTableRows := by
  refine fun w => ⟨fun ⟨i, h⟩ => ?_, fun ⟨r, hr, hw⟩ => ?_⟩
  · have hshape : codeBits (encode i) &&& (rowOf i).2 = (rowOf i).1 := encode_rowShape i
    rw [encode_of_decodeSeq h] at hshape
    exact ⟨rowOf i, rowOf_mem_seqRows (Machine.decodeSeq_isWord h), hshape⟩
  · obtain ⟨i, hi⟩ := exists_encode_of_row hr hw
    exact ⟨i, decodeSeq_of_encode hi⟩

/-- Settles O12: the decoder evaluated on each sample. -/
theorem sampleWordsDecodeAsTheSpecSays : Obligations.SampleWordsDecodeAsTheSpecSays := by
  unfold Obligations.SampleWordsDecodeAsTheSpecSays
  decide

/-! What is no instruction (R93, R107). -/

/-- The codes of commands lie in R92's three ranges. -/
theorem decodeCmd_ok_range {c : Byte} {i : Instr} (h : decodeCmd c = .ok i) :
    (0x01 ≤ c.toNat ∧ c.toNat ≤ 0x03) ∨ (0x10 ≤ c.toNat ∧ c.toNat ≤ 0x13) ∨ (0x18 ≤ c.toNat ∧ c.toNat ≤ 0x1B) := by
  have hcode := encode_of_decodeCmd h
  cases i with
  | plan | synth | rcfg | encFreq | encDrate | encDev | encBw | decFreq | decDrate | decDev | decBw =>
    cases hcode
    decide
  | outNull | outY | outX | jmpNotX | setY | setPins1 | setPins0 | nop | jmpYDec | jmp => cases hcode

theorem decodeCmd_reserved {c : Byte} (h : c.toNat = 0 ∨ (0x04 ≤ c.toNat ∧ c.toNat ≤ 0x0F) ∨
    (0x14 ≤ c.toNat ∧ c.toNat ≤ 0x17) ∨ 0x1C ≤ c.toNat) : ∃ e, decodeCmd c = .error e := by
  cases hd : decodeCmd c with
  | error e => exact ⟨e, rfl⟩
  | ok i =>
    have hrange := decodeCmd_ok_range hd
    omega

theorem decodeSeq_foreign {w : Word16} (h : ∀ r ∈ seqRows, w &&& r.2 ≠ r.1) : ∃ e, decodeSeq w = .error e := by
  cases hd : decodeSeq w with
  | error e => exact ⟨e, rfl⟩
  | ok i =>
    obtain ⟨r, hr, hw⟩ := (decoderAcceptsExactlyTheTableRows w).1 ⟨i, hd⟩
    exact absurd hw (h r hr)

namespace Machine

theorem step_reservedCommand {s : State} {v : BitVec 32} {rest : List Action} {e : DecodeError}
    (hs : s.script = .write 0 v :: rest) (he : decodeCmd (v.setWidth 8) = .error e) :
    step s = .next (raiseHard errCmd ((s.setScript rest).setCmd (v.setWidth 8))) := by
  have hcmd : actionIssue (.write 0 v) (s.setScript rest) = commandIssue (v.setWidth 8) (s.setScript rest) := by
    rw [actionIssue, if_pos ((hostReg_eq_cmd_iff 0).2 rfl)]
  exact step_settle (((issue_cons hs).trans hcmd).trans (commandIssue_error he _))

/-- Settles O6: the code is none of R92's, so the write ends in the hard error. -/
theorem reservedCodesEndInErrCmd : Obligations.ReservedCodesEndInErrCmd := by
  rintro s v rest c hs rfl hc
  have hcode : (v.setWidth 8 : BitVec 8) = BitVec.ofNat 8 (v.toNat % 256) :=
    BitVec.eq_of_toNat_eq (by simp)
  have hnat : (v.setWidth 8 : BitVec 8).toNat = v.toNat % 256 := BitVec.toNat_setWidth ..
  rw [← hnat] at hc
  obtain ⟨e, he⟩ := decodeCmd_reserved hc
  rw [step_reservedCommand hs he, ← hcode]
  rfl

/-- Settles O48: a word of no row does not decode, and the cycle refuses it, whichever way the cycle comes about. -/
theorem foreignWordsAreRefused : Obligations.ForeignWordsAreRefused := by
  intro s hscript hrun hdly hforeign
  obtain ⟨e, he⟩ := decodeSeq_foreign hforeign
  obtain hs | ⟨rest, hs⟩ := hscript
  · exact step_settle ((issue_nil hs).trans (cycleIssue_refused hrun hdly he))
  · have hcycle : cycleIssue (s.setScript rest) = .settle (.refused (.wordOutsideContract (seqWord s.seq))) :=
      cycleIssue_refused hrun hdly he
    exact step_settle ((issue_cons hs).trans hcycle)

/-! A chain's words (R102, R105, R142, R143). -/

theorem testBit_above {k n j : Nat} (hk : k < 2 ^ n) (hj : n ≤ j) : k.testBit j = false :=
  Nat.testBit_lt_two_pow (hk.trans_le (Nat.pow_le_pow_right (by decide) hj))

/-- The delay operand of a word is or'ed into its `dss` and touches no other field (R102). -/
theorem withCycles_packWord (op sel : BitVec 3) (dss low : BitVec 5) {c : Nat} (hc : c ≤ 32) :
    withCycles (packWord op dss sel low) c = packWord op (dss ||| BitVec.ofNat 5 (c - 1)) sel low := by
  have hhigh : ∀ {j}, 5 ≤ j → (c - 1).testBit j = false := testBit_above (show c - 1 < 2 ^ 5 by omega)
  apply BitVec.eq_of_getLsbD_eq
  intro i hi
  rw [withCycles, BitVec.getLsbD_or, BitVec.getLsbD_shiftLeft, packWord_getLsbD, packWord_getLsbD]
  interval_cases i <;> simp [-BitVec.getLsbD_eq_getElem, BitVec.getLsbD_ofNat, hhigh]

/-- A chain's first word carries side-set in dual-antenna mode only: enabled, with value 0 for high and 1 for low (R105). -/
def pinSide (two hi : Bool) : BitVec 5 := if two then (if hi then 0b10000 else 0b11000) else 0

theorem pinWord_eq_packWord (two hi : Bool) :
    (if hi then setHi two else setLo two) = packWord 0b111 (pinSide two hi) 0b000 (if hi then 0b00001 else 0b00000) := by
  revert two hi; decide

theorem decodeSeq_pinWord (hi : Bool) (dss : BitVec 5) :
    decodeSeq (packWord 0b111 dss 0b000 (if hi then 0b00001 else 0b00000)) =
      .ok (if hi then .setPins1 dss else .setPins0 dss) := by
  cases hi
  · exact decodeOfEncodeIsTheInstruction (.setPins0 dss)
  · exact decodeOfEncodeIsTheInstruction (.setPins1 dss)

theorem nopWord_eq_packWord : nopWord = packWord 0b101 0#5 0b010 0b00010 := rfl

theorem capOf_le (two : Bool) : capOf two ≤ 32 := by cases two <;> decide

/-- In dual-antenna mode a delay of at most `cap` cycles leaves the side-set bits alone (R96, R102). -/
theorem delayOperand_sideBits {c : Nat} (hc : c ≤ capOf true) :
    (BitVec.ofNat 5 (c - 1)).getLsbD 3 = false ∧ (BitVec.ofNat 5 (c - 1)).getLsbD 4 = false := by
  have hlt : c - 1 < 2 ^ 3 := by
    have hcap : capOf true = 8 := rfl
    omega
  simp only [BitVec.getLsbD_ofNat, testBit_above hlt (show 3 ≤ 3 by decide), testBit_above hlt (show 3 ≤ 4 by decide),
    Bool.and_false, and_self]

theorem pinWord_sideSet {two : Bool} (hi : Bool) {c : Nat} (hc : c ≤ capOf two) :
    sideEnable two (pinSide two hi ||| BitVec.ofNat 5 (c - 1)) = two ∧
    (two = true → sideValue (pinSide two hi ||| BitVec.ofNat 5 (c - 1)) = !hi) := by
  cases two with
  | false => exact ⟨rfl, nofun⟩
  | true =>
    obtain ⟨h3, h4⟩ := delayOperand_sideBits hc
    rw [sideEnable_eq, sideValue_eq, BitVec.getLsbD_or, BitVec.getLsbD_or, h3, h4]
    cases hi <;> decide

theorem nop_sideEnable {two : Bool} {c : Nat} (hc : c ≤ capOf two) :
    sideEnable two (BitVec.ofNat 5 (c - 1)) = false := by
  cases two with
  | false => rfl
  | true => rw [sideEnable_eq, (delayOperand_sideBits hc).2]; rfl

theorem chainFrom_succ {cap fuel v : Nat} {w : Word16} (hv : 0 < v) : chainFrom cap (fuel + 1) w v =
    withCycles w (min cap v) :: chainFrom cap fuel nopWord (v - min cap v) := by
  rw [chainFrom, if_neg (by omega)]

/-- Every word of a chain that starts with a `nop` is a `nop` without side-set. -/
theorem nopChain_words {two : Bool} {fuel v : Nat} {w : Word16} (h : w ∈ chainFrom (capOf two) fuel nopWord v) :
    ∃ dss, decodeSeq w = .ok (.nop dss) ∧ sideEnable two dss = false := by
  obtain ⟨c, -, hc, hw⟩ := mem_chainFrom (capOf_pos two) h
  refine ⟨BitVec.ofNat 5 (c - 1), ?_, nop_sideEnable hc⟩
  rw [or_self_iff.1 hw, nopWord_eq_packWord, withCycles_packWord _ _ _ _ (hc.trans (capOf_le two)), BitVec.zero_or]
  exact decodeOfEncodeIsTheInstruction (.nop _)

/-- Settles O23: the chain's first round emits its base word, the rest of the chain starts with a `nop`. -/
theorem chainIsAPinWordThenNops : Obligations.ChainIsAPinWordThenNops := by
  intro two hi v hv
  obtain ⟨n, rfl⟩ : ∃ n, v = n + 1 := ⟨v - 1, by omega⟩
  have hc : min (capOf two) (n + 1) ≤ capOf two := Nat.min_le_left _ _
  obtain ⟨henable, hvalue⟩ := pinWord_sideSet hi hc
  refine ⟨_, _, _, chainFrom_succ hv, ?_, henable, hvalue, fun _ => nopChain_words⟩
  rw [pinWord_eq_packWord, withCycles_packWord _ _ _ _ (hc.trans (capOf_le two))]
  exact decodeSeq_pinWord hi _

end Machine

end Sys2Proof
end

section
/-! PROOFS. A value of `WARN` from the conditions of its flags (R34). -/

namespace Sys2Proof.Machine

open Sys2Proof.Spec

/-- A value of `WARN` is the one its own seven bits spell (R34). -/
theorem warnOf_getLsbD : ∀ w : BitVec 7, warnOf (w.getLsbD 0 = true) (w.getLsbD 1 = true) (w.getLsbD 2 = true)
    (w.getLsbD 3 = true) (w.getLsbD 4 = true) (w.getLsbD 5 = true) (w.getLsbD 6 = true) = w := by decide

/-- The conditions of its flags determine a value of `WARN`. -/
theorem FlagsAre.eq_warnOf {w : BitVec 7} {b0 b1 b2 b3 b4 b5 b6 : Prop} [Decidable b0] [Decidable b1] [Decidable b2]
    [Decidable b3] [Decidable b4] [Decidable b5] [Decidable b6] (h : FlagsAre w b0 b1 b2 b3 b4 b5 b6) :
    w = warnOf b0 b1 b2 b3 b4 b5 b6 := by
  obtain ⟨h0, h1, h2, h3, h4, h5, h6⟩ := h
  rw [← warnOf_getLsbD w]
  simp only [warnOf, h0, h1, h2, h3, h4, h5, h6]

end Sys2Proof.Machine
end

section
/-! PROOFS. PLAN (40_planner.md): the plans fill the symbol time and depend on their own divider, O18; its full next
state, O13. -/

namespace Sys2Proof.Machine

open Sys2Proof.Spec

/-! The symbol plans (R124, R125, R128). -/

/-- Overhead, toggle pairs and correction fill a symbol time of `t` cycles: `total` is what the overhead leaves. -/
theorem symbolPlan_fills {t : Nat} (h : 4 ≤ t) (d : Nat) :
    4 + (symbolPlan (t - 4) d).fp * d + (symbolPlan (t - 4) d).a + (symbolPlan (t - 4) d).b = t := by
  have htotal := symbolPlan_total (t - 4) d
  have hcorrection := symbolPlan_correction (t - 4) d
  omega

theorem fullPlan_symbol0_indep_d1 (clk d0 d1 d1' baud : Nat) :
    (fullPlan clk d0 d1' baud).fp0 = (fullPlan clk d0 d1 baud).fp0 ∧
    (fullPlan clk d0 d1' baud).rem0 = (fullPlan clk d0 d1 baud).rem0 ∧
    (fullPlan clk d0 d1' baud).a0 = (fullPlan clk d0 d1 baud).a0 ∧
    (fullPlan clk d0 d1' baud).b0 = (fullPlan clk d0 d1 baud).b0 := ⟨rfl, rfl, rfl, rfl⟩

theorem fullPlan_symbol1_indep_d0 (clk d0 d0' d1 baud : Nat) :
    (fullPlan clk d0' d1 baud).fp1 = (fullPlan clk d0 d1 baud).fp1 ∧
    (fullPlan clk d0' d1 baud).rem1 = (fullPlan clk d0 d1 baud).rem1 ∧
    (fullPlan clk d0' d1 baud).a1 = (fullPlan clk d0 d1 baud).a1 ∧
    (fullPlan clk d0' d1 baud).b1 = (fullPlan clk d0 d1 baud).b1 := ⟨rfl, rfl, rfl, rfl⟩

/-- What PLAN leaves in the planner's registers is a function of `CLOCK_HZ`, `D0`, `D1` and `BAUD` (R128). -/
theorem plan_of_exec_plan {s t : State} (hp : ParamsValid s) (h : exec .plan s = .next t) :
    t.plan = fullPlan s.cfg.clockHz s.opnd.d0.toNat s.opnd.d1.toNat s.opnd.baud.toNat := by
  cases (execPlan_valid hp).symm.trans h
  rfl

/-- Settles O18: the registers are the exact numbers (O17), which fill the symbol time; the plan PLAN writes is
`fullPlan`, whose part for a symbol takes that symbol's divider only. -/
theorem symbolPlansFillTheSymbolTime : Obligations.SymbolPlansFillTheSymbolTime := by
  intro s t hcfg hp ht
  obtain ⟨-, -, -, hfp0, -, ha0, hb0, hfp1, -, ha1, hb1, -⟩ :=
    resultsFitTheirRegisters s t _ _ _ _ _ _ _ _ hcfg hp ht (execRcfg_valid hp) rfl rfl rfl rfl rfl rfl rfl
  have ⟨_, _, _, hT⟩ := hp
  refine ⟨?_, ?_, ?_⟩
  · rw [hfp0, ha0, hb0]
    exact symbolPlan_fills hT _
  · rw [hfp1, ha1, hb1]
    exact symbolPlan_fills hT _
  · intro s' t' hclk hbaud hp' ht'
    rw [plan_of_exec_plan hp ht, plan_of_exec_plan hp' ht', hclk, hbaud]
    refine ⟨fun h0 => ?_, fun h1 => ?_, fun h0 h1 => by rw [h0, h1]⟩
    · rw [h0]
      exact fullPlan_symbol0_indep_d1 ..
    · rw [h1]
      exact fullPlan_symbol1_indep_d0 ..

/-! PLAN's whole effect (R120). -/

/-- Settles O13: PLAN's one success writes the plan, with the baud of R123, and the timing warnings by their
conditions; its one failure raises `ERR_PARAM`. -/
theorem planResultsAndFrame : Obligations.PlanResultsAndFrame := by
  rintro s _ _ _ _ _ rfl rfl rfl rfl rfl
  refine ⟨fun hp => (execPlan_valid hp).trans ?_, execPlan_invalid⟩
  rw [succeed_eq, (timingWarn_flags ..).eq_warnOf, ← baudAchieved_eq_achievedBaud]
  rfl

end Sys2Proof.Machine
end

section
/-! PROOFS. SYNTH's outcome (R140, R157 to R161): its full next state when it commits, O15, and when it fails, O16; and
that it is a function of SYNTH's inputs, O21. -/

namespace Sys2Proof.Machine

/-- PLAN's warnings are among RCFG's (R160). -/
theorem timingWarn_or_derivationWarn (cfg : Config) (d0 d1 baud : Nat) :
    timingWarn cfg d0 d1 baud ||| derivationWarn cfg d0 d1 baud = derivationWarn cfg d0 d1 baud := by
  rw [derivationWarn, ← BitVec.or_assoc, BitVec.or_self]

/-- Settles O15: the commit writes what PLAN and RCFG write, and RCFG's warnings are the union of theirs. -/
theorem synthResultsAndFrame : Obligations.SynthResultsAndFrame := by
  intro s hp hn
  refine ⟨_, _, execPlan_valid hp, execRcfg_valid hp, (execSynth_commit hp hn).trans ?_⟩
  conv_lhs => rw [← timingWarn_or_derivationWarn]
  rfl

/-- Settles O16. -/
theorem synthFailuresPreserveState : Obligations.SynthFailuresPreserveState :=
  fun _ => ⟨execSynth_invalid, execSynth_tooLong⟩

/-- `s'` agrees with `s` on all that SYNTH reads (R141). -/
structure SynthInputsAgree (s s' : State) : Prop where
  d0 : s'.opnd.d0 = s.opnd.d0
  d1 : s'.opnd.d1 = s.opnd.d1
  baud : s'.opnd.baud = s.opnd.baud
  twoAnt : s'.opnd.twoAnt = s.opnd.twoAnt
  clockHz : s'.cfg.clockHz = s.cfg.clockHz
  devCeilA : s'.cfg.devCeilA = s.cfg.devCeilA
  devCeilB : s'.cfg.devCeilB = s.cfg.devCeilB

namespace SynthInputsAgree

variable {s s' : State} (h : SynthInputsAgree s s')
include h

theorem paramsValid_iff : ParamsValid s' ↔ ParamsValid s := by
  simp only [ParamsValid, h.d0, h.d1, h.baud, h.clockHz]

theorem lengthOf_eq : lengthOf s' = lengthOf s := by
  simp only [lengthOf, planOf0, planOf1, totalCycles, h.d0, h.d1, h.baud, h.clockHz, h.twoAnt]

theorem wordsOf_eq : wordsOf s' = wordsOf s := by
  simp only [wordsOf, planOf0, planOf1, totalCycles, h.d0, h.d1, h.baud, h.clockHz, h.twoAnt]

theorem derivationWarn_eq (d0 d1 baud : Nat) : derivationWarn s'.cfg d0 d1 baud = derivationWarn s.cfg d0 d1 baud := by
  simp only [derivationWarn, timingWarn, radioCfgWarn, wDevCeilA, wDevCeilB, h.clockHz, h.devCeilA, h.devCeilB]

end SynthInputsAgree

/-- Settles O21: states that agree on the inputs take the same of SYNTH's three ways, and each way writes a function of
the inputs. -/
theorem synthDependsOnItsInputsOnly : Obligations.SynthDependsOnItsInputsOnly := by
  intro s s' t t' hd0 hd1 hbaud htwo hclk hceilA hceilB ht ht'
  have h : SynthInputsAgree s s' := ⟨hd0, hd1, hbaud, htwo, hclk, hceilA, hceilB⟩
  by_cases hp : ParamsValid s
  · have hp' := h.paramsValid_iff.2 hp
    rcases Nat.lt_or_ge 32 (lengthOf s) with hn | hn
    · cases (execSynth_tooLong hp hn).symm.trans ht
      cases (execSynth_tooLong hp' (h.lengthOf_eq.symm ▸ hn)).symm.trans ht'
      exact ⟨rfl, rfl, fun hok => absurd hok (show errCapacity ≠ 0 by decide)⟩
    · cases (execSynth_commit hp hn).symm.trans ht
      cases (execSynth_commit hp' (h.lengthOf_eq.symm ▸ hn)).symm.trans ht'
      rw [h.lengthOf_eq, h.wordsOf_eq, h.derivationWarn_eq, hd0, hd1, hbaud, hclk]
      exact ⟨rfl, rfl, fun _ => ⟨rfl, rfl, rfl, rfl⟩⟩
  · cases (execSynth_invalid hp).symm.trans ht
    cases (execSynth_invalid (mt h.paramsValid_iff.1 hp)).symm.trans ht'
    exact ⟨rfl, rfl, fun hok => absurd hok (show errParam ≠ 0 by decide)⟩

end Sys2Proof.Machine
end

section
/-! PROOFS. The chain's arithmetic (R143, R144): what each word spends, and O22, that together they spend the delay. -/

namespace Sys2Proof.Machine

/-- The cycles a word occupies in antenna mode `two`: its delay operand and one (R95, R96, R182). -/
def wordCycles (two : Bool) (w : Word16) : Nat := (delayOf two (fieldDss w)).toNat + 1

/-- A delay of at most `cap` cycles is read back from the `dss` of a chain's word, beside a side-set as without one. -/
theorem delayOf_chain_dss : ∀ two hi, ∀ c < capOf two + 1,
    (delayOf two (pinSide two hi ||| BitVec.ofNat 5 (c - 1))).toNat = c - 1 ∧
    (delayOf two (0#5 ||| BitVec.ofNat 5 (c - 1))).toNat = c - 1 := by decide

section WordCycles

variable {two : Bool} {c : Nat}

theorem wordCycles_pinWord (hi : Bool) (h0 : 0 < c) (hc : c ≤ capOf two) :
    wordCycles two (withCycles (if hi then setHi two else setLo two) c) = c := by
  rw [wordCycles, pinWord_eq_packWord, withCycles_packWord _ _ _ _ (hc.trans (capOf_le two)), fieldDss_packWord,
    (delayOf_chain_dss two hi c (Nat.lt_succ_of_le hc)).1, Nat.sub_add_cancel h0]

theorem wordCycles_nopWord (h0 : 0 < c) (hc : c ≤ capOf two) : wordCycles two (withCycles nopWord c) = c := by
  rw [wordCycles, nopWord_eq_packWord, withCycles_packWord _ _ _ _ (hc.trans (capOf_le two)), fieldDss_packWord,
    (delayOf_chain_dss two true c (Nat.lt_succ_of_le hc)).2, Nat.sub_add_cancel h0]

end WordCycles

/-- Words that spend what they are asked to make a chain that spends its delay: each round takes its cycles off what
remains (R143, R144). -/
theorem chainFrom_cycles {two : Bool} : ∀ {fuel v : Nat} {w : Word16}, v ≤ fuel →
    (∀ c, 0 < c → c ≤ capOf two → wordCycles two (withCycles w c) = c) →
    ((chainFrom (capOf two) fuel w v).map (wordCycles two)).sum = v
  | 0, v, _, h, _ => by simp [chainFrom, Nat.le_zero.1 h]
  | fuel + 1, v, w, h, hw => by
    have hcap := capOf_pos two
    rcases Nat.eq_zero_or_pos v with rfl | hv
    · simp [chainFrom]
    · have hrest := chainFrom_cycles (two := two) (v := v - min (capOf two) v) (show _ ≤ fuel by omega)
        fun _ => wordCycles_nopWord
      rw [chainFrom_succ hv, List.map_cons, List.sum_cons, hrest, hw _ (by omega) (Nat.min_le_left _ _)]
      omega

/-- Settles O22: the rounds are counted by `IC`, spend the delay, and none asks for more than `cap` cycles. -/
theorem chainSpendsExactlyItsDelay : Obligations.ChainSpendsExactlyItsDelay := by
  rintro two hi v _ rfl
  refine ⟨chain_length _ v two, chainFrom_cycles (Nat.le_refl v) fun _ => wordCycles_pinWord hi, fun w hw => ?_⟩
  obtain ⟨c, h0, hc, hw⟩ := mem_chainFrom (capOf_pos two) hw
  have hcycles : wordCycles two w = c := by
    obtain rfl | rfl := hw
    · exact wordCycles_pinWord hi h0 hc
    · exact wordCycles_nopWord h0 hc
  exact Nat.le_sub_one_of_lt (hcycles.trans_le hc)

end Sys2Proof.Machine
end

section
/-! PROOFS. Pass 1 and pass 2 (R145 to R151): the loop groups run all full periods, O24; the labels are the numbers of
words emitted before them, O25. -/

namespace Sys2Proof.Machine

/-- The groups are as many as hold all full periods, 32 to a group (R145). -/
theorem groupCount_eq (p : SymPlan) : groupCount p = (p.fp + 31) / 32 := ic_eq_ceil (by decide)

theorem groupIters_eq (p : SymPlan) (g : Nat) : groupIters p g = min 32 (p.fp - g * 32) := rfl

/-- The first `n` groups run 32 periods each, as far as there are periods. -/
theorem groupIters_sum (p : SymPlan) (n : Nat) : ((List.range n).map (groupIters p)).sum = min (32 * n) p.fp := by
  induction n with
  | zero => simp
  | succ n ih =>
    rw [List.range_succ, List.map_append, List.sum_append, ih, List.map_singleton, List.sum_singleton, groupIters_eq]
    omega

/-- Settles O24: before the last group 32 more periods are left. -/
theorem loopGroupsCoverTheFullPeriods : Obligations.LoopGroupsCoverTheFullPeriods := by
  intro p
  have hcount := groupCount_eq p
  refine ⟨fun g hg => ⟨groupIters_eq p g, ?_⟩, fun g hg => ?_, ?_, fun hfp => ?_⟩
  · rw [groupIters_eq]
    omega
  · rw [groupIters_eq]
    omega
  · rw [groupIters_sum]
    omega
  · omega

/-- Settles O25: each label counts the words of the blocks, groups and chains before it, whose lengths pass 1 uses. -/
theorem labelsEqualTheEmissionCursor : Obligations.LabelsEqualTheEmissionCursor := by
  rintro two d0 d1 p0 p1 x _ rfl
  refine ⟨rfl, ?_, emitProgram_length .., rfl, rfl, fun start d p => ?_⟩
  · rw [List.length_append, emitBlock_length]
    rfl
  · have hblock := emitBlock_length two start d p
    refine ⟨hblock, fun g => ?_, ?_, _, rfl, ?_⟩
    · rw [emitGroups_length]
      rfl
    · rw [emitGroups_length]
    · rw [emitBlock, List.length_append, List.length_singleton] at hblock
      omega

end Sys2Proof.Machine
end

section
/-! PROOFS. Which word stands where in a committed program (R152 to R155): the emitted list read at an index, a part of
it at the part's index, and so O57. -/

namespace Sys2Proof.Machine

open Sys2Proof.Spec

/-! The words of a chain, by their index (R143). -/

/-- Round `j` emits the base word or, after the first, a `nop`, for what the rounds before it left. -/
theorem chainFrom_getElem_eq_some {cap : Nat} (hcap : 0 < cap) : ∀ {fuel v j : Nat} (w : Word16), v ≤ fuel →
    j < ic v cap →
    (chainFrom cap fuel w v)[j]? = some (withCycles (if j = 0 then w else nopWord) (min cap (v - j * cap)))
  | 0, v, j, w, hv, hj => by simp [Nat.le_zero.1 hv] at hj
  | fuel + 1, v, j, w, hv, hj => by
    have hpos : 0 < v := Nat.pos_of_ne_zero fun h0 => by simp [h0] at hj
    rw [chainFrom_succ hpos]
    cases j with
    | zero => simp
    | succ j =>
      rw [ic_step hcap hpos] at hj
      have hrest : v - min cap v - j * cap = v - (j + 1) * cap := by
        rw [Nat.succ_mul]
        omega
      rw [List.getElem?_cons_succ, chainFrom_getElem_eq_some hcap nopWord (by omega) (by omega), ite_self, hrest,
        if_neg (Nat.succ_ne_zero j)]

/-- The or of the rules and the sum of the statement give the same `dss`: a delay below `cap` and a side-set share no
bit (R96, R102). -/
theorem pinDss_eq : ∀ two hi, ∀ c < capOf two + 1,
    pinSide two hi ||| BitVec.ofNat 5 (c - 1) = pinDss two hi (c - 1) := by decide

theorem decodeSeq_withCycles_pinWord (two hi : Bool) {c : Nat} (hc : c ≤ capOf two) :
    decodeSeq (withCycles (if hi then setHi two else setLo two) c) =
      .ok (if hi then .setPins1 (pinDss two hi (c - 1)) else .setPins0 (pinDss two hi (c - 1))) := by
  rw [pinWord_eq_packWord, withCycles_packWord _ _ _ _ (hc.trans (capOf_le two)),
    pinDss_eq two hi c (Nat.lt_succ_of_le hc)]
  exact decodeSeq_pinWord hi _

theorem decodeSeq_withCycles_nopWord {c : Nat} (hc : c ≤ 32) :
    decodeSeq (withCycles nopWord c) = .ok (.nop (BitVec.ofNat 5 (c - 1))) := by
  rw [nopWord_eq_packWord, withCycles_packWord _ _ _ _ hc, BitVec.zero_or]
  exact decodeOfEncodeIsTheInstruction (.nop _)

/-! Lists of words at an index of a program. -/

/-- From index `pos` on the program holds the words of `l`. -/
def EmittedAt (p : ProgramRegs) (pos : Nat) (l : List Word16) : Prop :=
  ∀ j w, l[j]? = some w → wordAt p (pos + j) = (decodeSeq w).toOption

/-- A commit puts the words of its list at 0 (R157). -/
theorem emittedAt_commitRegs {n : Nat} {b : List Word16} (hlen : b.length = n) (hn : n ≤ 32) :
    EmittedAt (commitRegs n b) 0 b := by
  intro j w hw
  obtain ⟨hj, rfl⟩ := List.getElem?_eq_some_iff.1 hw
  have hcount : (commitRegs n b).len.toNat = n := Nat.mod_eq_of_lt (by omega)
  have hword : (commitRegs n b).words[j]? = some b[j] := by simp [commitRegs, hj, show j < 32 by omega]
  rw [wordAt, hcount, Nat.zero_add, if_pos (by omega), hword, Option.bind_some]

namespace EmittedAt

variable {p : ProgramRegs} {pos : Nat} {l k : List Word16}

theorem wordAt_eq (h : EmittedAt p pos l) {j : Nat} {w : Word16} {i : Instr} (hw : l[j]? = some w)
    (hd : decodeSeq w = .ok i) : wordAt p (pos + j) = some i := by
  rw [h j w hw, hd]
  rfl

theorem append_left (h : EmittedAt p pos (l ++ k)) : EmittedAt p pos l := fun j w hw =>
  h j w (List.getElem?_append_left (List.getElem?_eq_some_iff.1 hw).1 ▸ hw)

theorem append_right (h : EmittedAt p pos (l ++ k)) : EmittedAt p (pos + l.length) k := fun j w hw => by
  rw [Nat.add_assoc]
  exact h _ w (by rwa [List.getElem?_append_right (Nat.le_add_right _ _), Nat.add_sub_cancel_left])

/-- The last word of a part. -/
theorem wordAt_concat {w : Word16} (h : EmittedAt p pos (l ++ [w])) {i : Instr} (hd : decodeSeq w = .ok i) :
    wordAt p (pos + l.length) = some i :=
  h.append_right.wordAt_eq (j := 0) rfl hd

/-- Of `n` parts of `len` words each, part `g` stands after `g` of them. -/
theorem flatMap_range {f : Nat → List Word16} {len n g : Nat} (hf : ∀ g, (f g).length = len)
    (h : EmittedAt p pos ((List.range n).flatMap f)) (hg : g < n) : EmittedAt p (pos + g * len) (f g) := by
  induction n with
  | zero => cases hg
  | succ n ih =>
    rw [List.range_succ, List.flatMap_append, List.flatMap_singleton] at h
    obtain hlt | rfl := Nat.lt_succ_iff_lt_or_eq.1 hg
    · exact ih h.append_left hlt
    · have hbefore : ((List.range g).flatMap f).length = g * len := by simp [List.length_flatMap, hf]
      exact hbefore ▸ h.append_right

end EmittedAt

/-! The parts pass 2 emits are the ones the statement describes, read at their indices (R143, R153, R154). -/

theorem ic_eq_ceilDiv (v : Nat) (two : Bool) : ic v (capOf two) = ceilDiv v (capOf two) := ic_eq_ceil (capOf_pos two)

theorem chain_length_ceilDiv (base : Word16) (v : Nat) (two : Bool) :
    (chain base v (capOf two)).length = ceilDiv v (capOf two) := (chain_length base v two).trans (ic_eq_ceilDiv v two)

theorem groupLen_eq_groupWords (d : Nat) (two : Bool) : groupLen d (capOf two) = groupWords d (capOf two) := by
  rw [groupLen, groupWords, ic_eq_ceilDiv, ic_eq_ceilDiv]

theorem blockLen_eq_blockWords (d : Nat) (p : SymPlan) (two : Bool) :
    blockLen d p (capOf two) = blockWords (capOf two) d p.fp p.a p.b := by
  rw [blockLen, blockWords, ic_eq_ceilDiv, ic_eq_ceilDiv, groupLen_eq_groupWords, groupCount_eq]
  rfl

theorem labelSym0_eq_blockWords (d1 : Nat) (p1 : SymPlan) (two : Bool) :
    labelSym0 d1 p1 (capOf two) = 4 + blockWords (capOf two) d1 p1.fp p1.a p1.b := by
  rw [labelSym0, blockLen_eq_blockWords]

theorem programLen_eq_blockWords (d0 d1 : Nat) (p0 p1 : SymPlan) (two : Bool) :
    programLen d0 d1 p0 p1 (capOf two) =
      4 + blockWords (capOf two) d1 p1.fp p1.a p1.b + blockWords (capOf two) d0 p0.fp p0.a p0.b := by
  rw [programLen, blockLen_eq_blockWords, blockLen_eq_blockWords]

section Parts

variable {r : ProgramRegs} {two : Bool} {pos start d : Nat} {p : SymPlan}

theorem chainAt_of_emitted (hi : Bool) {v : Nat}
    (h : EmittedAt r pos (chain (if hi then setHi two else setLo two) v (capOf two))) :
    ChainAt r two hi (capOf two) pos v := by
  intro j hj
  have hw := chainFrom_getElem_eq_some (capOf_pos two) (if hi then setHi two else setLo two) (Nat.le_refl v)
    (hj.trans_eq (ic_eq_ceilDiv v two).symm)
  have hc : ∀ c, min (capOf two) c ≤ capOf two := Nat.min_le_left _
  refine h.wordAt_eq hw ?_
  cases j with
  | zero => simpa using decodeSeq_withCycles_pinWord two hi (hc v)
  | succ j => simpa using decodeSeq_withCycles_nopWord ((hc _).trans (capOf_le two))

theorem groupAt_of_emitted {g : Nat} (htarget : labelLoop start d (capOf two) g < 32)
    (h : EmittedAt r (start + g * groupWords d (capOf two)) (emitGroup two start d p g)) :
    GroupAt r two (capOf two) (start + g * groupWords d (capOf two)) d (groupIters p g) := by
  have hiters : groupIters p g - 1 < 32 := by
    have : groupIters p g ≤ 32 := Nat.min_le_left _ _
    omega
  have hlabel : labelLoop start d (capOf two) g = start + g * groupWords d (capOf two) + 1 := by
    rw [labelLoop, groupLen_eq_groupWords]
  rw [emitGroup, hlabel] at h
  rw [hlabel] at htarget
  have hchains := h.append_left
  have hhigh : EmittedAt r _ (chain (setHi two) (d / 2) (capOf two)) := hchains.append_left.append_right (l := [_])
  have hlow := hchains.append_right
  have hjump := h.wordAt_concat (decode_jmpYDec_word htarget)
  simp only [List.length_append, List.length_cons, chain_length_ceilDiv] at hlow hjump
  refine ⟨hchains.wordAt_eq (j := 0) rfl (decode_setY_word hiters), chainAt_of_emitted true hhigh, ?_, ?_⟩
  · rw [Nat.add_assoc _ 1, Nat.add_comm 1]
    exact chainAt_of_emitted false hlow
  · rw [← hjump, groupWords]
    congr 1
    omega

theorem endAt_of_emitted {a b : Nat} (h : EmittedAt r pos (chain (setHi two) a (capOf two)
    ++ (chain (setLo two) b (capOf two) ++ [0x0000 ||| BitVec.ofNat 16 labelGet]))) :
    EndAt r two (capOf two) pos a b := by
  have hlow := h.append_right
  have hjump := hlow.wordAt_concat (i := .jmp 0 2) (by decide)
  rw [chain_length_ceilDiv] at hlow
  rw [chain_length_ceilDiv, chain_length_ceilDiv] at hjump
  exact ⟨chainAt_of_emitted true h.append_left, chainAt_of_emitted false hlow.append_left, hjump⟩

theorem blockAt_of_emitted (hfit : start + blockLen d p (capOf two) ≤ 32)
    (h : EmittedAt r start (emitBlock two start d p)) : BlockAt r two (capOf two) start d p.fp p.a p.b := by
  rw [emitBlock, List.append_assoc, List.append_assoc] at h
  have hend := h.append_right
  rw [emitGroups_length, groupLen_eq_groupWords, groupCount_eq] at hend
  refine ⟨fun g hg => ?_, endAt_of_emitted hend⟩
  have hcount : g < groupCount p := hg.trans_eq (groupCount_eq p).symm
  have hgroup := h.append_left.flatMap_range (emitGroup_length two start d p) hcount
  rw [groupLen_eq_groupWords] at hgroup
  rw [Nat.mul_comm 32 g, ← groupIters_eq]
  exact groupAt_of_emitted ((labelLoop_lt hcount start d (capOf two)).trans_le hfit) hgroup

theorem prologueAt_of_emitted {sym0 : Nat} (h32 : sym0 < 32) (h : EmittedAt r 0 (emitPrologue sym0)) :
    wordAt r 0 = some (.outNull 0) ∧ wordAt r 1 = some (.outY 0) ∧ wordAt r 2 = some (.outX 0) ∧
    wordAt r 3 = some (.jmpNotX 0 (BitVec.ofNat 5 sym0)) :=
  ⟨h.wordAt_eq (j := 0) rfl (by decide), h.wordAt_eq (j := 1) rfl (by decide), h.wordAt_eq (j := 2) rfl (by decide),
    h.wordAt_eq (j := 3) rfl (decode_jmpNotX_word h32)⟩

/-- A program that fits: its three parts, each at its label (R140, R150). -/
theorem programAt_of_emitted {d0 d1 : Nat} {p0 p1 : SymPlan} (hfit : programLen d0 d1 p0 p1 (capOf two) ≤ 32)
    (h : EmittedAt r 0 (emitProgram two d0 d1 p0 p1)) :
    EmittedAt r 0 (emitPrologue (labelSym0 d1 p1 (capOf two))) ∧
    BlockAt r two (capOf two) labelSym1 d1 p1.fp p1.a p1.b ∧
    BlockAt r two (capOf two) (labelSym0 d1 p1 (capOf two)) d0 p0.fp p0.a p0.b := by
  have hsum : labelSym0 d1 p1 (capOf two) + blockLen d0 p0 (capOf two) = programLen d0 d1 p0 p1 (capOf two) := rfl
  have hsym1 : labelSym1 + blockLen d1 p1 (capOf two) = labelSym0 d1 p1 (capOf two) := rfl
  rw [emitProgram] at h
  have hblock1 := h.append_left.append_right
  have hblock0 := h.append_right
  rw [List.length_append, emitBlock_length, Nat.zero_add] at hblock0
  rw [Nat.zero_add] at hblock1
  exact ⟨h.append_left.append_left, blockAt_of_emitted (by omega) hblock1, blockAt_of_emitted (by omega) hblock0⟩

end Parts

/-- Settles O57: the commit holds the emitted list, the list is the prologue and the two blocks, and each is read at its
index. -/
theorem everyEmittedWordIsTheRulesOwn : Obligations.EveryEmittedWordIsTheRulesOwn := by
  rintro s _ _ _ _ _ _ _ _ _ _ hp hn rfl rfl rfl rfl rfl rfl rfl rfl rfl rfl
  have hemitted := emittedAt_commitRegs (b := wordsOf s) (emitProgram_length ..) hn
  obtain ⟨hprologue, hblock1, hblock0⟩ := programAt_of_emitted hn hemitted
  have hsym0 := labelSym0_lt_programLen s.opnd.d0.toNat s.opnd.d1.toNat (planOf0 s) (planOf1 s) (capOf s.opnd.twoAnt)
  obtain ⟨h0, h1, h2, h3⟩ := prologueAt_of_emitted (hsym0.trans_le hn) hprologue
  have hlen : (commitRegs (lengthOf s) (wordsOf s)).len.toNat = lengthOf s := Nat.mod_eq_of_lt (by omega)
  rw [labelSym0_eq_blockWords] at h3 hblock0
  exact ⟨_, execSynth_commit hp hn, h0, h1, h2, h3, hblock1, hblock0, hlen.trans (programLen_eq_blockWords ..)⟩

end Sys2Proof.Machine
end

section
/-! PROOFS. Where the sequencer stands: what a step can do to it, case by case, and O54, that it stays inside a legal
program (R185). -/

namespace Sys2Proof.Machine

/-! What a step can do to the sequencer. -/

/-- What a step makes of the sequencer of `s`: nothing; the first cycle of the word at `pc`, or a cycle of its delay
(R182); or one of the host's four actions on it (R181, R183, R197, R315). -/
inductive SeqMove (s : State) : Seq → Prop where
  | kept : SeqMove s s.seq
  | word {i : Instr} {u t : State} (hword : decodeSeq (seqWord s.seq) = .ok i) (hseq : u.seq = s.seq)
      (hexec : exec i u = .next t) : SeqMove s t.seq
  | wait : SeqMove s (seqWait s.seq)
  | push (w : BitVec 32) : SeqMove s (seqPush w s.seq)
  | install (hvalid : s.progValid = true) : SeqMove s (seqInstall s.prog s.progTwoAnt s.seq)
  | start (x y : BitVec 32) (p1 p2 : Bool) : SeqMove s (seqStart x y p1 p2 s.seq)
  | stop : SeqMove s (seqStop s.seq)

/-- The pending actions are the outside world's, not the sequencer's. -/
theorem SeqMove.of_setScript {s : State} {l : List Action} {q : Seq} (h : SeqMove (s.setScript l) q) : SeqMove s q := by
  cases h with
  | kept => exact .kept
  | word hword hseq hexec => exact .word hword hseq hexec
  | wait => exact .wait
  | push w => exact .push w
  | install hvalid => exact .install hvalid
  | start x y p1 p2 => exact .start x y p1 p2
  | stop => exact .stop

theorem cycleIssue_settle_seqMove {s t : State} (h : cycleIssue s = .settle (.next t)) : SeqMove s t.seq := by
  unfold cycleIssue at h
  split at h
  · cases h; exact .kept
  · split at h
    · cases h; exact .wait
    · split at h <;> cases h

/-- A host write that starts no command leaves the sequencer alone (R36, R285). -/
theorem actionIssue_write_settle_seq {r : BitVec 6} {v : BitVec 32} {s t : State}
    (h : actionIssue (.write r v) s = .settle (.next t)) : t.seq = s.seq := by
  rw [actionIssue] at h
  split at h
  · cases hd : decodeCmd (v.setWidth 8) with
    | ok i => rw [commandIssue_ok hd] at h; cases h
    | error e => rw [commandIssue_error hd] at h; cases h; rfl
  · cases h; rfl

theorem actionIssue_settle_seqMove {a : Action} {s t : State} (h : actionIssue a s = .settle (.next t)) :
    SeqMove s t.seq := by
  cases a with
  | write r v => rw [actionIssue_write_settle_seq h]; exact .kept
  | cycle => exact cycleIssue_settle_seqMove h
  | push w => cases h; exact .push w
  | install two o ws we =>
    simp only [actionIssue, Issue.settle.injEq] at h
    obtain ⟨-, hvalid, rfl, rfl⟩ := install_next h
    exact .install hvalid
  | start x y p1 p2 => cases h; exact .start x y p1 p2
  | stop => cases h; exact .stop
  | read | reset | radioPreset | radioResume => cases h; exact .kept

theorem issue_settle_seqMove {s t : State} (h : issue s = .settle (.next t)) : SeqMove s t.seq := by
  cases hs : s.script with
  | nil => exact cycleIssue_settle_seqMove (issue_nil hs ▸ h)
  | cons a rest => exact (actionIssue_settle_seqMove (issue_cons hs ▸ h)).of_setScript

/-- What a code decodes to is encoded in 8 bits, as no word is (R90). -/
theorem decodeCmd_isWord {c : Byte} {i : Instr} (h : decodeCmd c = .ok i) : i.isWord = false := by
  have hcode : encode i = .cmd8 c := encode_of_decodeCmd h
  cases i with
  | outNull | outY | outX | jmpNotX | setY | setPins1 | setPins0 | nop | jmpYDec | jmp => cases hcode
  | plan | synth | rcfg | encFreq | encDrate | encDev | encBw | decFreq | decDrate | decDev | decBw => rfl

/-- A command leaves the sequencer alone (R41); a word is the one at `pc`. -/
theorem issue_run_seqMove {s u t : State} {i : Instr} (h : issue s = .run i u) (hexec : exec i u = .next t) :
    SeqMove s t.seq := by
  obtain ⟨r, v, rest, -, -, hd, rfl⟩ | ⟨-, -, hw, ⟨-, rfl⟩ | ⟨rest, -, rfl⟩⟩ := issue_run_cases h
  · obtain ⟨w, hnext, hkeeps⟩ :=
      exec_command_keeps (decodeCmd_isWord hd) ((s.setScript rest).setCmd (v.setWidth 8))
    cases hnext.symm.trans hexec
    rw [hkeeps.seq]
    exact .kept
  · exact .word hw rfl hexec
  · exact .word hw (s.setScript_seq rest) hexec

theorem step_seqMove {s t : State} (h : step s = .next t) : SeqMove s t.seq := by
  obtain ⟨i, u, hrun, hexec⟩ | hsettle := step_next_cases h
  · exact issue_run_seqMove hrun hexec
  · exact issue_settle_seqMove hsettle

/-! The two halves of the invariant (R185): the words up to `WRAP_END` are legal, and the indices stay among them. -/

/-- Every word the sequencer can reach is a legal word of a program that ends at `WRAP_END`. -/
def StoreLegal (q : Seq) : Prop :=
  ∀ i : Fin 32, i.val ≤ q.wrapEnd.toNat → wordLegal q.ss (q.wrapEnd.toNat + 1) q.imem[i.val] = true

/-- `pc`, the next index and `WRAP_START` are at most `WRAP_END`. -/
structure IndicesInside (q : Seq) : Prop where
  pc : q.pc.toNat ≤ q.wrapEnd.toNat
  npc : q.npc.toNat ≤ q.wrapEnd.toNat
  wrapStart : q.wrapStart.toNat ≤ q.wrapEnd.toNat

theorem seqInv_iff (q : Seq) : SeqInv q ↔ StoreLegal q ∧ IndicesInside q :=
  ⟨fun ⟨hstore, hpc, hnpc, hws⟩ => ⟨hstore, hpc, hnpc, hws⟩, fun ⟨hstore, h⟩ => ⟨hstore, h.pc, h.npc, h.wrapStart⟩⟩

/-- The store is legal for whoever has the same setup. -/
theorem StoreLegal.of_setup {q r : Seq} (h : StoreLegal q) (hkept : SetupKept q r) : StoreLegal r := by
  simpa only [StoreLegal, hkept.imem, hkept.ss, hkept.wrapEnd] using h

/-- The word at `pc` has its target, if any, up to `WRAP_END`. -/
theorem StoreLegal.targetBelow_of_decode {q : Seq} {i : Instr} (h : StoreLegal q) (hpc : q.pc.toNat ≤ q.wrapEnd.toNat)
    (hd : decodeSeq (seqWord q) = .ok i) : targetBelow (q.wrapEnd.toNat + 1) i = true := by
  have hlegal : wordLegal q.ss (q.wrapEnd.toNat + 1) (seqWord q) = true := h ⟨q.pc.toNat, q.pc.isLt⟩ hpc
  simp only [wordLegal, hd, Bool.and_eq_true] at hlegal
  exact hlegal.2

namespace IndicesInside

variable {q r : Seq}

theorem fall (h : IndicesInside q) : (seqFall q).toNat ≤ q.wrapEnd.toNat := seqFall_le h.pc h.wrapStart

/-- A word ends inside when the index it goes to is inside. -/
theorem finish (h : IndicesInside q) (dss : BitVec 5) {next : BitVec 5} (hnext : next.toNat ≤ q.wrapEnd.toNat) :
    IndicesInside (seqFinish dss next q) where
  pc := by
    rw [seqFinish_eq]
    dsimp only
    split
    · exact hnext
    · exact h.pc
  npc := hnext
  wrapStart := h.wrapStart

theorem wait (h : IndicesInside q) : IndicesInside (seqWait q) where
  pc := by
    rw [seqWait_eq]
    dsimp only
    split
    · exact h.npc
    · exact h.pc
  npc := h.npc
  wrapStart := h.wrapStart

/-- The working registers and the pins are no index. -/
theorem working (h : IndicesInside q) (x y : BitVec 32) (p1 : Bool) :
    IndicesInside { q with x := x, y := y, p1 := p1 } :=
  ⟨h.pc, h.npc, h.wrapStart⟩

/-- Taking bits from the stream moves no index. -/
theorem take (h : IndicesInside q) {dir : ShiftDir} {n : Nat} {bits : BitVec 32}
    (htake : seqTake dir n q = some (bits, r)) : IndicesInside r := by
  obtain ⟨o, c, f, d, rfl⟩ := seqTake_frame htake
  exact ⟨h.pc, h.npc, h.wrapStart⟩

/-- An `OUT` word stalls where it is, or falls through. -/
theorem out {s : State} (h : IndicesInside s.seq) (n : Nat) {dest : BitVec 32 → Seq → Seq}
    (hdest : ∀ bits q, ∃ x y, dest bits q = { q with x := x, y := y }) (dss : BitVec 5) :
    ∃ q, seqOut n dest dss s = .next (s.setSeq q) ∧ IndicesInside q := by
  obtain ⟨-, hstall⟩ | ⟨bits, q, htake, hnext⟩ := seqOut_cases n dest dss s
  · exact ⟨s.seq, hstall, h⟩
  · have htaken : IndicesInside q := h.take htake
    obtain ⟨x, y, hxy⟩ := hdest bits q
    rw [hxy] at hnext
    exact ⟨_, hnext, (htaken.working x y q.p1).finish dss htaken.fall⟩

/-- A word whose target lies inside leaves the sequencer inside (R185). -/
theorem word {s : State} (h : IndicesInside s.seq) {i : Instr} (hi : i.isWord = true)
    (ht : targetBelow (s.seq.wrapEnd.toNat + 1) i = true) :
    ∃ q, exec i s = .next (s.setSeq q) ∧ IndicesInside q := by
  cases i with
  | outNull dss => exact h.out 32 (fun _ q => ⟨q.x, q.y, rfl⟩) dss
  | outY dss => exact h.out 32 (fun bits q => ⟨q.x, bits, rfl⟩) dss
  | outX dss => exact h.out 1 (fun bits q => ⟨bits, q.y, rfl⟩) dss
  | nop dss => exact ⟨_, rfl, h.finish dss h.fall⟩
  | setY dss n => exact ⟨_, rfl, (h.working s.seq.x (n.setWidth 32) s.seq.p1).finish dss h.fall⟩
  | setPins1 dss => exact ⟨_, rfl, (h.working s.seq.x s.seq.y true).finish dss h.fall⟩
  | setPins0 dss => exact ⟨_, rfl, (h.working s.seq.x s.seq.y false).finish dss h.fall⟩
  | jmp dss t => exact ⟨_, rfl, h.finish dss (Nat.le_of_lt_succ (of_decide_eq_true ht))⟩
  | jmpNotX dss t =>
    refine ⟨_, rfl, h.finish dss ?_⟩
    split
    · exact Nat.le_of_lt_succ (of_decide_eq_true ht)
    · exact h.fall
  | jmpYDec dss t =>
    refine ⟨_, rfl, (h.working s.seq.x (s.seq.y - 1) s.seq.p1).finish dss ?_⟩
    split
    · exact Nat.le_of_lt_succ (of_decide_eq_true ht)
    · exact h.fall
  | plan | synth | rcfg | encFreq | encDrate | encDev | encBw | decFreq | decDrate | decDev | decBw => cases hi

end IndicesInside

/-! The moves keep it. -/

theorem seqInv_of_setup {q r : Seq} (h : SeqInv q) (hkept : SetupKept q r) (hinside : IndicesInside r) : SeqInv r :=
  (seqInv_iff r).2 ⟨((seqInv_iff q).1 h).1.of_setup hkept, hinside⟩

/-- The word at `pc` is one of the program's, so its target is inside. -/
theorem seqInv_word {s t u : State} {i : Instr} (h : SeqInv s.seq) (hword : decodeSeq (seqWord s.seq) = .ok i)
    (hseq : u.seq = s.seq) (hexec : exec i u = .next t) : SeqInv t.seq := by
  rw [← hseq] at h hword
  obtain ⟨hstore, hinside⟩ := (seqInv_iff u.seq).1 h
  have hi : i.isWord = true := decodeSeq_isWord hword
  obtain ⟨q, hq, hqinside⟩ := hinside.word hi (hstore.targetBelow_of_decode hinside.pc hword)
  obtain ⟨r, hr, hkept⟩ := exec_word_setupKept hi u
  cases hq.symm.trans hexec
  cases hr.symm.trans hq
  exact seqInv_of_setup h hkept hqinside

/-- A good program, installed, is what the sequencer then stays inside (R33, R315). -/
theorem seqInv_install {p : ProgramRegs} {two : Bool} (h : ProgramGood p two) (q : Seq) :
    SeqInv (seqInstall p two q) := by
  obtain ⟨-, hle, hws, hend, hlegal, -, -⟩ := h
  have hwe : (p.wrapEnd.setWidth 5).toNat = p.wrapEnd.toNat := by
    rw [BitVec.toNat_setWidth, Nat.mod_eq_of_lt (by omega)]
  have hstore : StoreLegal (seqInstall p two q) := by
    intro i hi
    have hlen : i.val < p.len.toNat := by
      have : i.val ≤ (p.wrapEnd.setWidth 5).toNat := hi
      omega
    change wordLegal two ((p.wrapEnd.setWidth 5).toNat + 1) (copyProgram p q.imem)[i.val] = true
    rw [copyProgram_getElem, if_pos hlen, hwe, hend]
    exact hlegal i hlen
  have hstart : (p.wrapStart.setWidth 5).toNat = 0 := by rw [hws]; rfl
  exact (seqInv_iff _).2 ⟨hstore, Nat.zero_le _, Nat.zero_le _, hstart ▸ Nat.zero_le _⟩

theorem SeqMove.seqInv {s : State} {q : Seq} (h : SeqMove s q) (hprog : ProgramInv s) (hs : SeqInv s.seq) :
    SeqInv q := by
  have hinside : IndicesInside s.seq := ((seqInv_iff _).1 hs).2
  cases h with
  | kept => exact hs
  | word hword hseq hexec => exact seqInv_word hs hword hseq hexec
  | wait => exact seqInv_of_setup hs ⟨rfl, rfl, rfl, rfl, rfl⟩ hinside.wait
  | install hvalid => exact seqInv_install (hprog.1 hvalid) s.seq
  | push w => exact hs
  | start x y p1 p2 => exact ⟨hs.1, Nat.zero_le _, Nat.zero_le _, hinside.wrapStart⟩
  | stop => exact hs

/-- Settles O54: every move of the sequencer keeps it inside; an install puts it inside the committed program, which is
good. -/
theorem everyStepKeepsTheSequencerInItsProgram : Obligations.EveryStepKeepsTheSequencerInItsProgram :=
  fun _ _ hprog hs h => (step_seqMove h).seqInv hprog hs

end Sys2Proof.Machine
end

section
/-! PROOFS. The ten words' full next states (R186 to R195): the end of a first cycle read on numbers, the jumps O46, the
`set` words and `nop` O47, and the stream: a stall O45, the bits taken O44. -/

namespace Sys2Proof.Machine

open Sys2Proof.Spec

/-! The end of a word's first cycle (R95, R96, R182, R184, R185). -/

theorem delayOf_toNat_eq_delayCount (q : Seq) (dss : BitVec 5) : (delayOf q.ss dss).toNat = delayCount q dss :=
  delayOf_toNat q.ss dss

/-- The model's end of a word is the statements' own. -/
theorem seqFinish_eq_afterWord (dss next : BitVec 5) (q : Seq) : seqFinish dss next q = afterWord dss next q := by
  have hdelay : delayOf q.ss dss = BitVec.ofNat 5 (delayCount q dss) := by
    rw [← delayOf_toNat_eq_delayCount, BitVec.ofNat_toNat, BitVec.setWidth_eq]
  have hzero : delayOf q.ss dss = 0 ↔ delayCount q dss = 0 := by
    rw [delayOf_eq_zero_iff, delayOf_toNat_eq_delayCount]
  rw [seqFinish_eq, afterWord]
  simp only [hzero, sideEnable_eq, sideValue_eq, Bool.and_eq_true, ← hdelay]

theorem seqFall_eq_nextIndex (q : Seq) : seqFall q = nextIndex q := rfl

theorem seqDo_eq_afterWord (dss next : BitVec 5) (q : Seq) (s : State) :
    seqDo dss next q s = .next { s with seq := afterWord dss next q } := by
  rw [seqDo_eq, seqFinish_eq_afterWord]

/-! Jumps (R189, R194, R195). -/

theorem eq_zero_iff_toNat (v : BitVec 32) : v = 0 ↔ v.toNat = 0 := BitVec.toNat_inj.symm

/-- A decrement of 32 bits wraps (R194). -/
theorem sub_one_eq_ofNat (v : BitVec 32) : v - 1 = BitVec.ofNat 32 ((v.toNat + (2 ^ 32 - 1)) % 2 ^ 32) := by
  bv_omega

/-- Settles O46. -/
theorem jumpWordsResultAndFrame : Obligations.JumpWordsResultAndFrame := by
  intro s dss t
  refine ⟨seqDo_eq_afterWord _ _ _ s, ?_, ?_⟩
  · change execJmpNotX dss t s = _
    rw [execJmpNotX, seqDo_eq_afterWord, seqFall_eq_nextIndex]
    simp only [eq_zero_iff_toNat]
  · change execJmpYDec dss t s = _
    rw [execJmpYDec, seqDo_eq_afterWord, seqFall_eq_nextIndex, ← sub_one_eq_ofNat]
    simp only [ne_eq, ite_not, eq_zero_iff_toNat]

/-- Settles O47. -/
theorem setAndNopWordsResultAndFrame : Obligations.SetAndNopWordsResultAndFrame := by
  rintro s dss n next rfl
  have himmediate : n.setWidth 32 = BitVec.ofNat 32 n.toNat := (BitVec.ofNat_toNat 32 n).symm
  refine ⟨?_, seqDo_eq_afterWord _ _ _ s, seqDo_eq_afterWord _ _ _ s, seqDo_eq_afterWord _ _ _ s⟩
  exact himmediate ▸ seqDo_eq_afterWord _ _ _ s

/-! The stream (R183, R186 to R188). -/

theorem seqOut_stall (n : Nat) (dest : BitVec 32 → Seq → Seq) (dss : BitVec 5) {s : State} (hc : s.seq.osrcnt = 32)
    (hf : s.seq.fifo = []) : seqOut n dest dss s = .next s := by
  rw [seqOut, seqTake_stall hc hf]

/-- Settles O45. -/
theorem outWordsStallOnAnEmptyStream : Obligations.OutWordsStallOnAnEmptyStream := by
  intro i s dss hi hc hf
  simp only [List.mem_cons, List.not_mem_nil, or_false] at hi
  obtain rfl | rfl | rfl := hi <;> exact seqOut_stall _ _ dss hc hf

/-- With bits in `OSR` or a word in the FIFO an `OUT` takes its bits from what autopull leaves, of which a bit at least
has not gone. -/
theorem seqTake_pulled {q : Seq} {o : BitVec 32} {c : Nat} {fifo : List (BitVec 32)} (dir : ShiftDir) (n : Nat)
    (hdata : q.osrcnt ≠ 32 ∨ q.fifo ≠ []) (hp : (o, c, fifo) = pulled q) :
    ∃ k : Fin 33, k.val = c ∧ c < 32 ∧ seqTake dir n q = some (shiftBits dir n o, { q with
      osr := shiftRest dir n o, osrcnt := shiftCount n k q.draws, draws := shiftDraws n k q.draws, fifo := fifo }) := by
  unfold pulled at hp
  by_cases hc : q.osrcnt = 32
  · cases hf : q.fifo with
    | nil => exact absurd hdata (by simp [hc, hf])
    | cons w rest =>
      rw [if_pos hc, hf] at hp
      cases hp
      exact ⟨0, rfl, by decide, seqTake_refill hc hf⟩
  · rw [if_neg hc] at hp
    cases hp
    exact ⟨q.osrcnt, rfl, by omega, seqTake_ready hc⟩

/-- What an `OUT` word with data does, by what autopull leaves. -/
theorem seqOut_pulled {s : State} {o : BitVec 32} {c : Nat} {fifo : List (BitVec 32)} (n : Nat)
    (dest : BitVec 32 → Seq → Seq) (dss : BitVec 5) (hdata : s.seq.osrcnt ≠ 32 ∨ s.seq.fifo ≠ [])
    (hp : (o, c, fifo) = pulled s.seq) :
    ∃ k : Fin 33, k.val = c ∧ c < 32 ∧ seqOut n dest dss s = .next { s with
      seq := afterWord dss (nextIndex s.seq) (dest (shiftBits s.cfg.shiftDir n o) { s.seq with
        osr := shiftRest s.cfg.shiftDir n o, osrcnt := shiftCount n k s.seq.draws
        draws := shiftDraws n k s.seq.draws, fifo := fifo }) } := by
  obtain ⟨k, hk, hc, htake⟩ := seqTake_pulled s.cfg.shiftDir n hdata hp
  refine ⟨k, hk, hc, ?_⟩
  rw [seqOut, htake]
  dsimp only
  rw [seqFinish_eq_afterWord]
  rfl

/-- The count after all 32 bits: 32 when none had gone, else a free value (log 8). -/
theorem shiftCount_all {k : Fin 33} {c : Nat} (hk : k.val = c) (q : Seq) :
    shiftCount 32 k q.draws = countAfter32 c q ∧ shiftDraws 32 k q.draws = drawsAfter32 c q := by
  unfold countAfter32 drawsAfter32
  by_cases hc : c = 0
  · obtain ⟨hcount, hdraws⟩ := shiftCount_fit (n := 32) (c := k) q.draws (by omega)
    rw [if_pos hc, if_pos hc]
    exact ⟨Fin.ext (hcount.trans (by rw [hk, hc]; rfl)), hdraws⟩
  · rw [if_neg hc, if_neg hc]
    exact shiftCount_past q.draws (by omega)

/-- The count after one more bit, when one at least was left. -/
theorem shiftCount_one {k : Fin 33} {c : Nat} (hk : k.val = c) (hc : c < 32) (d : Nat) :
    shiftCount 1 k d = Fin.ofNat 33 (c + 1) ∧ shiftDraws 1 k d = d := by
  obtain ⟨hcount, hdraws⟩ := shiftCount_fit (n := 1) (c := k) d (by omega)
  refine ⟨Fin.ext (hcount.trans ?_), hdraws⟩
  rw [hk, Fin.val_ofNat, Nat.mod_eq_of_lt (by omega)]

section Out

variable {s : State} {o : BitVec 32} {c : Nat} {fifo : List (BitVec 32)} (dest : BitVec 32 → Seq → Seq)
  (dss : BitVec 5) (hdata : s.seq.osrcnt ≠ 32 ∨ s.seq.fifo ≠ []) (hp : (o, c, fifo) = pulled s.seq)

include hdata hp

/-- An `OUT` of 32 bits gives its destination the whole word, in either direction. -/
theorem seqOut_all : seqOut 32 dest dss s = .next { s with
    seq := afterWord dss (nextIndex s.seq) (dest o { s.seq with
      osr := 0, osrcnt := countAfter32 c s.seq, draws := drawsAfter32 c s.seq, fifo := fifo }) } := by
  obtain ⟨k, hk, -, hout⟩ := seqOut_pulled 32 dest dss hdata hp
  obtain ⟨hcount, hdraws⟩ := shiftCount_all hk s.seq
  rw [hout, shiftBits_all, shiftRest_all, hcount, hdraws]

/-- An `OUT` of one bit gives its destination the bit at the direction's end. -/
theorem seqOut_one : seqOut 1 dest dss s = .next { s with
    seq := afterWord dss (nextIndex s.seq) (dest (shiftBits s.cfg.shiftDir 1 o) { s.seq with
      osr := shiftRest s.cfg.shiftDir 1 o, osrcnt := Fin.ofNat 33 (c + 1), fifo := fifo }) } := by
  obtain ⟨k, hk, hc, hout⟩ := seqOut_pulled 1 dest dss hdata hp
  obtain ⟨hcount, hdraws⟩ := shiftCount_one hk hc s.seq.draws
  rw [hout, hcount, hdraws]

end Out

/-! One bit leaves at the low end, or at the high end (R183). -/

theorem shiftRest_right_one (o : BitVec 32) : shiftRest .right 1 o = BitVec.ofNat 32 (o.toNat / 2) :=
  BitVec.eq_of_toNat_eq (by
    rw [shiftRest, BitVec.toNat_ushiftRight, Nat.shiftRight_eq_div_pow, BitVec.toNat_ofNat]; omega)

theorem shiftBits_left_one (o : BitVec 32) : shiftBits .left 1 o = BitVec.ofNat 32 (o.toNat / 2 ^ 31) :=
  BitVec.eq_of_toNat_eq (by
    rw [shiftBits, BitVec.toNat_ushiftRight, Nat.shiftRight_eq_div_pow, BitVec.toNat_ofNat]; omega)

theorem shiftRest_left_one (o : BitVec 32) : shiftRest .left 1 o = BitVec.ofNat 32 (2 * o.toNat) :=
  BitVec.eq_of_toNat_eq (by rw [shiftRest, BitVec.toNat_shiftLeft, Nat.shiftLeft_eq, BitVec.toNat_ofNat]; omega)

/-- Settles O44: autopull leaves `o`, of which `c` bits have gone; the word takes all of it, or its lowest or highest
bit. -/
theorem outWordsTakeStreamBits : Obligations.OutWordsTakeStreamBits := by
  rintro s dss o c fifo next hdata hp rfl
  refine ⟨seqOut_all _ dss hdata hp, seqOut_all _ dss hdata hp, fun hright => ?_, fun hleft => ?_⟩
  · change execOutX dss s = _
    rw [execOutX, seqOut_one _ dss hdata hp, hright, shiftRest_right_one]
    rfl
  · change execOutX dss s = _
    rw [execOutX, seqOut_one _ dss hdata hp, hleft, shiftBits_left_one, shiftRest_left_one]

end Sys2Proof.Machine
end

section
/-! PROOFS. Steps that move the sequencer without a word: the delay cycles, O5, and the host's actions, O51. -/

namespace Sys2Proof.Machine

/-! A delay (R182): `k` of its cycles, counted down one by one. -/

/-- The sequencer when `k` cycles of its delay have passed. -/
def waited (k : Nat) (q : Seq) : Seq :=
  { q with dly := q.dly - BitVec.ofNat 5 k, pc := if 0 < k ∧ k = q.dly.toNat then q.npc else q.pc }

theorem waited_zero (q : Seq) : waited 0 q = q := by
  simp [waited]

/-- The first cycle of a delay, and `k` more: `pc` moves in the last of them, which is the first when `k` is 0. -/
theorem waited_seqWait {k : Nat} {q : Seq} (h : k + 1 ≤ q.dly.toNat) : waited k (seqWait q) = waited (k + 1) q := by
  have hpred : (q.dly - 1).toNat = q.dly.toNat - 1 := by bv_omega
  have hcount : q.dly - 1 - BitVec.ofNat 5 k = q.dly - BitVec.ofNat 5 (k + 1) := by bv_omega
  have hlast : q.dly = 1 ↔ q.dly.toNat = 1 := BitVec.toNat_inj.symm
  have hpc : (if 0 < k ∧ k = q.dly.toNat - 1 then q.npc else if q.dly.toNat = 1 then q.npc else q.pc) =
      if 0 < k + 1 ∧ k + 1 = q.dly.toNat then q.npc else q.pc := by
    grind
  simp only [waited, seqWait_eq, hpred, hcount, hlast, hpc]

/-- The next `k` steps are cycles of the sequencer, and leave the actions `rest` pending (log 2). -/
def CyclesNext (k : Nat) (rest : List Action) (s : State) : Prop :=
  s.script = [] ∧ rest = [] ∨ s.script = List.replicate k .cycle ++ rest

/-- The first of them is a delay cycle while there is a delay. -/
theorem step_wait {k : Nat} {rest : List Action} {s : State} (hrun : s.seq.running = true) (hdly : s.seq.dly ≠ 0)
    (h : CyclesNext (k + 1) rest s) :
    ∃ l, step s = .next ((s.setScript l).setSeq (seqWait s.seq)) ∧
      CyclesNext k rest ((s.setScript l).setSeq (seqWait s.seq)) := by
  obtain ⟨hs, hrest⟩ | hs := h
  · refine ⟨s.script, ?_, .inl ⟨hs, hrest⟩⟩
    exact step_settle ((issue_nil hs).trans (cycleIssue_wait hrun hdly))
  · refine ⟨List.replicate k .cycle ++ rest, ?_, .inr rfl⟩
    have hcycle : cycleIssue (s.setScript (List.replicate k .cycle ++ rest)) = _ := cycleIssue_wait hrun hdly
    exact step_settle ((issue_cons hs).trans hcycle)

theorem CyclesNext.script_zero {rest : List Action} {s : State} (h : CyclesNext 0 rest s) : s.script = rest := by
  obtain ⟨hs, hrest⟩ | hs := h
  · rw [hs, hrest]
  · exact hs

/-- `k` cycles of a delay of at least `k`. -/
theorem run_waits {k : Nat} {rest : List Action} : ∀ {s : State}, s.seq.running = true → k ≤ s.seq.dly.toNat →
    CyclesNext k rest s → Host.Core.run Sys2Proof.core k s = .next ((s.setScript rest).setSeq (waited k s.seq)) := by
  induction k with
  | zero =>
    intro s _ _ h
    rw [waited_zero, ← h.script_zero]
    rfl
  | succ k ih =>
    intro s hrun hk h
    have hdly : s.seq.dly ≠ 0 := fun e => by rw [e] at hk; exact absurd hk (Nat.not_succ_le_zero k)
    have hpred : k ≤ (seqWait s.seq).dly.toNat := by
      rw [seqWait_eq]
      bv_omega
    obtain ⟨l, hstep, hnext⟩ := step_wait hrun hdly h
    rw [run_of_step k hstep, ih (s := (s.setScript l).setSeq (seqWait s.seq)) hrun hpred hnext]
    exact congrArg (fun q => Host.Outcome.next ((s.setScript rest).setSeq q)) (waited_seqWait hk)

/-- Settles O5. -/
theorem delayCyclesOnlyCountDown : Obligations.DelayCyclesOnlyCountDown := by
  intro s k rest hrun hpos hk hscript
  have hend : (0 < k ∧ k = s.seq.dly.toNat) ↔ k = s.seq.dly.toNat := by omega
  rw [run_waits hrun hk hscript, waited]
  simp only [hend]
  rfl

/-! The host's actions (R181, R183, R197), and a stopped sequencer's cycle. -/

/-- An action that runs no instruction is a step to its settled state. -/
theorem step_action {s t : State} {a : Action} {rest : List Action} (hs : s.script = a :: rest)
    (ha : actionIssue a (s.setScript rest) = .settle (.next t)) : step s = .next t :=
  step_settle ((issue_cons hs).trans ha)

/-- Settles O51. -/
theorem hostActionsOnTheSequencer : Obligations.HostActionsOnTheSequencer := by
  intro s rest
  refine ⟨fun w hs => step_action hs rfl, fun x y p1 p2 hs => step_action hs rfl, fun hs => step_action hs rfl,
    fun hstop hs => ?_, fun hstop hs => ?_⟩
  · have hidle : cycleIssue (s.setScript rest) = .settle (.next (s.setScript rest)) := cycleIssue_stopped hstop
    exact step_action hs hidle
  · exact step_settle ((issue_nil hs).trans (cycleIssue_stopped hstop))

end Sys2Proof.Machine
end

section
/-! PROOFS. RCFG and the RadioConfig derivation (43_radioconfig.md): RCFG's full next state, O14; the deviation from the
two tones, O19; that the registers are a function of the clock, the dividers and the baud, O20. -/

namespace Sys2Proof.Machine

open Sys2Proof.Spec

/-! The deviation (R213): the center is half the tones' sum, rounded down, so it stands at half the tones' distance,
rounded down, from the lower tone, and at the rest of that distance from the higher. -/

theorem rcDeviation_of_lt {clk d0 d1 : Nat} (h : clk / d0 < clk / d1) :
    rcDeviation clk d0 d1 = (clk / d1 - clk / d0 + 1) / 2 := by
  have hcenter : rcCenter clk d0 d1 ≤ clk / d1 := by
    unfold rcCenter
    omega
  rw [rcDeviation, if_pos hcenter, rcCenter]
  omega

theorem rcDeviation_of_le {clk d0 d1 : Nat} (h : clk / d1 ≤ clk / d0) :
    rcDeviation clk d0 d1 = (clk / d0 - clk / d1) / 2 := by
  unfold rcDeviation rcCenter
  split <;> omega

/-- Rounded up, the deviation of a higher symbol 1 never vanishes; rounded down, it does at the distances 0 and 1
(R217). -/
theorem rcDeviation_eq_zero_iff (clk d0 d1 : Nat) :
    rcDeviation clk d0 d1 = 0 ↔ clk / d0 = clk / d1 ∨ clk / d0 = clk / d1 + 1 := by
  rcases Nat.lt_or_ge (clk / d0) (clk / d1) with h | h
  · rw [rcDeviation_of_lt h]
    omega
  · rw [rcDeviation_of_le h]
    omega

/-- Settles O19: the register is the derivation's number (R43), which has the closed form of the tones' order. -/
theorem deviationClosedForm : Obligations.DeviationClosedForm := by
  rintro s t _ _ ⟨-, hclk, -⟩ hvalid ht rfl rfl
  cases (execRcfg_valid hvalid).symm.trans ht
  obtain ⟨h0, h1, hb, h4⟩ := hvalid
  obtain ⟨-, hcenter, hdev, -⟩ := radioCfgRegs_toNat hclk h0 h1 hb h4
  refine ⟨?_, fun hlt => ?_, fun hle => ?_⟩
  · exact hdev.trans (hcenter.symm ▸ rfl)
  · have hform := hdev.trans (rcDeviation_of_lt hlt)
    exact ⟨hform.trans_le (by omega), hform⟩
  · have hform := hdev.trans (rcDeviation_of_le hle)
    exact ⟨hform.trans_le (by omega), hform⟩

/-! The derivation as a function of its four inputs (R217). -/

/-- What RCFG and SYNTH share when they succeed: valid operands, and the derivation in the RadioConfig registers. -/
theorem derivation_ok {i : Instr} (hi : i ∈ [Instr.rcfg, .synth]) {s t : State} (h : exec i s = .next t)
    (hok : t.err = 0) : ParamsValid s ∧
      t.rc = radioCfgRegs s.cfg.clockHz s.opnd.d0.toNat s.opnd.d1.toNat s.opnd.baud.toNat := by
  rcases List.mem_pair.1 hi with rfl | rfl
  · obtain ⟨hp, -, hrc⟩ := execRcfg_ok h hok
    exact ⟨hp, hrc⟩
  · obtain ⟨hp, -, hrc⟩ := execSynth_ok h hok
    exact ⟨hp, hrc⟩

/-- Settles O20: both commands write `radioCfgRegs` of the four inputs, without narrowing (R43); the bandwidth adds to
the baud. -/
theorem radioConfigIsAPureFunction : Obligations.RadioConfigIsAPureFunction := by
  rintro i i' s s' t t' hi hi' ⟨-, hclk, -⟩ hclock hd0 hd1 hbaud ht ht' hok hok'
  obtain ⟨⟨h0, h1, hb, h4⟩, hrc⟩ := derivation_ok hi ht hok
  obtain ⟨-, hrc'⟩ := derivation_ok hi' ht' hok'
  obtain ⟨rbaud, -, rdev, rbw⟩ := radioCfgRegs_toNat hclk h0 h1 hb h4
  rw [hrc', hclock, hd0, hd1, hbaud, hrc]
  refine ⟨rfl, ?_, ?_⟩
  · rw [rbaud, rbw, rcMinBw]
    exact Nat.le_add_right _ _
  · rw [← rcDeviation_eq_zero_iff, ← rdev]
    exact BitVec.toNat_inj.symm

/-! RCFG's whole effect (R210). -/

/-- Settles O14: RCFG's one success writes the derivation, with the baud of R123, and its warnings by their conditions;
its one failure raises `ERR_PARAM`. -/
theorem rcfgResultsAndFrame : Obligations.RcfgResultsAndFrame := by
  rintro s _ _ _ _ _ _ _ _ rfl rfl rfl rfl rfl rfl rfl rfl
  refine ⟨fun hp => (execRcfg_valid hp).trans ?_, execRcfg_invalid⟩
  rw [succeed_eq, (derivationWarn_flags ..).eq_warnOf, ← baudAchieved_eq_achievedBaud]
  rfl

end Sys2Proof.Machine
end

section
/-! PROOFS. An ENC command at the radio port (R226): its transactions as one list, from which what it leaves in the trace,
in the radio and elsewhere is read off; that each starts with the idle strobe, O31; that ENC_BW and ENC_DRATE commute,
O36. -/

namespace Sys2Proof.Machine

open Sys2Proof.Spec

/-! A list of writes to the radio's memory (R68). -/

/-- The radio's memory after the writes `ws`, in their order. -/
def memWrites (m : List Host.Cell) (ws : List (BitVec 8 × BitVec 8)) : List Host.Cell :=
  ws.foldl (fun m w => memWrite m w.1.toNat w.2) m

theorem memWrites_cons (m : List Host.Cell) (w : BitVec 8 × BitVec 8) (ws : List (BitVec 8 × BitVec 8)) :
    memWrites m (w :: ws) = memWrites (memWrite m w.1.toNat w.2) ws := rfl

theorem memWrites_append_singleton (m : List Host.Cell) (ws : List (BitVec 8 × BitVec 8)) (a v : BitVec 8) :
    memWrites m (ws ++ [(a, v)]) = memWrite (memWrites m ws) a.toNat v := List.foldl_concat ..

theorem memWrites_wf {m : List Host.Cell} {ws : List (BitVec 8 × BitVec 8)} (hm : Memory.wf m = true) :
    Memory.wf (memWrites m ws) = true := by
  induction ws generalizing m with
  | nil => exact hm
  | cons w ws ih => exact ih (memWrite_wf w.1 w.2 hm)

theorem memRead_memWrites_other {a : BitVec 8} {ws : List (BitVec 8 × BitVec 8)} (h : a ∉ ws.map Prod.fst)
    (m : List Host.Cell) : memRead (memWrites m ws) a.toNat = memRead m a.toNat := by
  induction ws generalizing m with
  | nil => rfl
  | cons w ws ih =>
    obtain ⟨hw, hws⟩ := not_or.1 (mt List.mem_cons.2 h)
    rw [memWrites_cons, ih hws, memRead_memWrite_other (fun e => hw (BitVec.eq_of_toNat_eq e).symm)]

/-- With no address written twice, each reads as the value written there. -/
theorem memRead_memWrites_mem {a v : BitVec 8} {ws : List (BitVec 8 × BitVec 8)} {m : List Host.Cell}
    (hm : Memory.wf m = true) (hnodup : (ws.map Prod.fst).Nodup) (h : (a, v) ∈ ws) :
    memRead (memWrites m ws) a.toNat = v := by
  induction ws generalizing m with
  | nil => cases h
  | cons w ws ih =>
    obtain ⟨hw, hws⟩ := List.nodup_cons.1 hnodup
    rw [memWrites_cons]
    cases h with
    | head => exact (memRead_memWrites_other hw _).trans (memRead_memWrite_same _ _ hm)
    | tail _ h => exact ih (memWrite_wf w.1 w.2 hm) hws h

/-- A second write to an address hides the first. -/
theorem memWrite_memWrite_same {m : List Host.Cell} (hm : Memory.wf m = true) (a v w : BitVec 8) :
    memWrite (memWrite m a.toNat v) a.toNat w = memWrite m a.toNat w := by
  have hv := memWrite_wf a v hm
  refine memory_ext (memWrite_wf a w hv) (memWrite_wf a w hm) fun k => ?_
  by_cases h : a.toNat = k
  · rw [← h, memRead_memWrite_same _ _ hv, memRead_memWrite_same _ _ hm]
  · simp only [memRead_memWrite_other h]

/-- Writes to different addresses commute. -/
theorem memWrite_comm {m : List Host.Cell} (hm : Memory.wf m = true) {a b : BitVec 8} (hab : a ≠ b) (v w : BitVec 8) :
    memWrite (memWrite m a.toNat v) b.toNat w = memWrite (memWrite m b.toNat w) a.toNat v := by
  have hne : a.toNat ≠ b.toNat := fun e => hab (BitVec.eq_of_toNat_eq e)
  have hv := memWrite_wf a v hm
  have hw := memWrite_wf b w hm
  refine memory_ext (memWrite_wf b w hv) (memWrite_wf a v hw) fun k => ?_
  by_cases ha : a.toNat = k
  · rw [← ha, memRead_memWrite_other hne.symm, memRead_memWrite_same _ _ hm, memRead_memWrite_same _ _ hw]
  · by_cases hb : b.toNat = k
    · rw [← hb, memRead_memWrite_same _ _ hv, memRead_memWrite_other hne, memRead_memWrite_same _ _ hm]
    · simp only [memRead_memWrite_other ha, memRead_memWrite_other hb]

/-! The transactions of one command. -/

/-- The writes among some transactions: address and value. -/
def writesOf (l : List RadioTxn) : List (BitVec 8 × BitVec 8) :=
  l.filterMap fun
    | .write a v => some (a, v)
    | _ => none

/-- `t` is `s` after the idle strobe and then the reads and writes `l` (R226, R228). -/
structure EncRun (s : State) (l : List RadioTxn) (t : State) : Prop where
  portOnly : PortOnly s t
  mode : t.radio.mode = .idle
  mem : t.radio.mem = memWrites s.radio.mem (writesOf l)
  trace : t.trace = s.trace ++ .strobe s.cfg.sIdle :: l
  access : ∀ x ∈ l, ∀ c, x ≠ .strobe c

namespace EncRun

variable {s t : State} {l : List RadioTxn}

theorem strobe (s : State) : EncRun s [] (radioStrobe s.cfg.sIdle s) where
  portOnly := (PortOnly.refl s).strobe _
  mode := if_pos rfl
  mem := rfl
  trace := rfl
  access := fun _ h => nomatch h

theorem read (h : EncRun s l t) (a : BitVec 8) : EncRun s (l ++ [.read a (radioValue a t)]) (radioRead a t) where
  portOnly := h.portOnly.transact _ _
  mode := h.mode
  mem := by
    rw [writesOf, List.filterMap_append]
    exact h.mem.trans (congrArg _ (List.append_nil _).symm)
  trace := by
    rw [radioRead_eq]
    exact (congrArg (· ++ _) h.trace).trans (List.append_assoc ..)
  access := by
    intro x hx
    rcases List.mem_append.1 hx with hx | hx
    · exact h.access x hx
    · rw [List.mem_singleton.1 hx]
      nofun

theorem write (h : EncRun s l t) (a v : BitVec 8) : EncRun s (l ++ [.write a v]) (radioWrite a v t) where
  portOnly := h.portOnly.write _ _
  mode := h.mode
  mem := by
    rw [writesOf, List.filterMap_append]
    exact (congrArg (memWrite · a.toNat v) h.mem).trans (memWrites_append_singleton ..).symm
  trace := by
    rw [radioWrite_eq]
    exact (congrArg (· ++ _) h.trace).trans (List.append_assoc ..)
  access := by
    intro x hx
    rcases List.mem_append.1 hx with hx | hx
    · exact h.access x hx
    · rw [List.mem_singleton.1 hx]
      nofun

/-- A read-modify-write is its read and its write (R70). -/
theorem modify (h : EncRun s l t) (a m f : BitVec 8) {v : BitVec 8} (hv : (radioValue a t &&& ~~~m) ||| f = v) :
    EncRun s (l ++ [.read a (radioValue a t)] ++ [.write a v]) (radioModify a m f t) :=
  hv ▸ (h.read a).write a _

theorem radio (h : EncRun s l t) : t.radio = ⟨memWrites s.radio.mem (writesOf l), .idle⟩ :=
  congrArg₂ Radio.mk h.mem h.mode

theorem unwritten (h : EncRun s l t) {a : BitVec 8} (ha : a ∉ (writesOf l).map Prod.fst) :
    radioValue a t = radioValue a s := by
  rw [radioValue, h.mem, memRead_memWrites_other ha, radioValue]

/-! What the run leaves, once the command has reported `r` with the warnings `w`. -/

section Reported

variable (h : EncRun s l t) (hm : Memory.wf s.radio.mem = true) (r : ResultRegs) (w : BitVec 7)
include h

theorem reported_frame : encFrame s (succeed w (t.setRes r)) := by
  obtain ⟨radio, trace, rfl⟩ := h.portOnly
  rfl

theorem reported_trace : (succeed w (t.setRes r)).trace = s.trace ++ .strobe s.cfg.sIdle :: l := h.trace

theorem reported_mode : (succeed w (t.setRes r)).radio.mode = .idle := h.mode

theorem reported_othersKept : othersKept ((writesOf l).map Prod.fst) s (succeed w (t.setRes r)) :=
  fun _ ha => h.unwritten ha

include hm

theorem reported_wf : Memory.wf (succeed w (t.setRes r)).radio.mem = true := by
  show Memory.wf t.radio.mem = true
  rw [h.mem, memWrites_wf hm]

theorem reported_value (hnodup : ((writesOf l).map Prod.fst).Nodup) {a v : BitVec 8} (hv : (a, v) ∈ writesOf l) :
    radioValue a (succeed w (t.setRes r)) = v := by
  show memRead t.radio.mem a.toNat = v
  rw [h.mem, memRead_memWrites_mem hm hnodup hv]

end Reported

end EncRun

/-! The four commands' transactions (R230, R235, R239, R244). -/

/-- A byte of `FREQ` by shift and by division (R230). -/
theorem extractByte_ofNat {k : Nat} (hk : k + 8 ≤ 24) (freq : Nat) :
    (BitVec.ofNat 24 freq).extractLsb' k 8 = BitVec.ofNat 8 (freq / 2 ^ k) := by
  refine BitVec.eq_of_getLsbD_eq fun i hi => ?_
  have hbit : k + i < 24 := by omega
  rw [BitVec.getLsbD_extractLsb', BitVec.getLsbD_ofNat, BitVec.getLsbD_ofNat, Nat.testBit_div_two_pow, Nat.add_comm i k]
  simp only [hi, hbit, decide_true, Bool.true_and]

/-- The reads and writes of R230, `old` being what `MDMCFG1` held. -/
def freqLog (c : Config) (freq m : Nat) (old : BitVec 8) : List RadioTxn :=
  [.write c.aFreq2 (BitVec.ofNat 8 (freq / 2 ^ 16)), .write c.aFreq1 (BitVec.ofNat 8 (freq / 2 ^ 8)),
    .write c.aFreq0 (BitVec.ofNat 8 freq), .write c.aChannr 0x01, .read c.aMdmcfg1 old,
    .write c.aMdmcfg1 (old &&& 0xFC), .write c.aMdmcfg0 (BitVec.ofNat 8 m)]

/-- The six addresses ENC_FREQ writes are different. -/
theorem freqLog_nodup {c : Config} (h : c.AddressesDistinct) (freq m : Nat) (old : BitVec 8) :
    ((writesOf (freqLog c freq m old)).map Prod.fst).Nodup := by
  show [c.aFreq2, c.aFreq1, c.aFreq0, c.aChannr, c.aMdmcfg1, c.aMdmcfg0].Nodup
  simp only [Config.AddressesDistinct, List.nodup_cons, List.mem_cons, List.not_mem_nil, not_or, or_false] at h ⊢
  grind

/-- The value read from `MDMCFG1` is the one before the command, when no earlier write of it has the same address. -/
theorem freqTransactions_run (freq m : Nat) (s : State) : ∃ old,
    EncRun s (freqLog s.cfg freq m old) (freqTransactions freq m s) ∧
    (s.cfg.AddressesDistinct → old = radioValue s.cfg.aMdmcfg1 s) := by
  have hwrites := ((((EncRun.strobe s).write s.cfg.aFreq2 (BitVec.ofNat 8 (freq / 2 ^ 16))).write s.cfg.aFreq1
    (BitVec.ofNat 8 (freq / 2 ^ 8))).write s.cfg.aFreq0 (BitVec.ofNat 8 freq)).write s.cfg.aChannr 0x01
  refine ⟨_, ?_, fun hd => hwrites.unwritten ?_⟩
  · have hlow := extractByte_ofNat (k := 0) (by decide) freq
    rw [pow_zero, Nat.div_one] at hlow
    rw [freqTransactions, hlow, extractByte_ofNat (k := 8) (by decide), extractByte_ofNat (k := 16) (by decide)]
    exact (hwrites.modify s.cfg.aMdmcfg1 0x03 0x00 BitVec.or_zero).write s.cfg.aMdmcfg0 (BitVec.ofNat 8 m)
  · intro hbefore
    exact List.disjoint_of_nodup_append (l₁ := [s.cfg.aFreq2, s.cfg.aFreq1, s.cfg.aFreq0, s.cfg.aChannr])
      (freqLog_nodup hd freq m 0) hbefore List.mem_cons_self

theorem mdmcfg4_ne_mdmcfg3 {c : Config} (h : c.AddressesDistinct) : c.aMdmcfg4 ≠ c.aMdmcfg3 := by
  intro heq
  simp [Config.AddressesDistinct, heq] at h

theorem drateTransactions_run (e m : Nat) (s : State) :
    EncRun s [.read s.cfg.aMdmcfg4 (radioValue s.cfg.aMdmcfg4 s),
      .write s.cfg.aMdmcfg4 ((radioValue s.cfg.aMdmcfg4 s &&& 0xF0) ||| BitVec.ofNat 8 e),
      .write s.cfg.aMdmcfg3 (BitVec.ofNat 8 m)] (drateTransactions e m s) :=
  ((EncRun.strobe s).modify s.cfg.aMdmcfg4 0x0F (BitVec.ofNat 8 e) rfl).write s.cfg.aMdmcfg3 (BitVec.ofNat 8 m)

/-- The exponent's and the mantissa's field of `DEVIATN` together (R239). -/
theorem devField_eq : ∀ e ≤ 7, ∀ m ≤ 7,
    (BitVec.ofNat 8 e <<< 4) ||| BitVec.ofNat 8 m = BitVec.ofNat 8 (16 * e + m) := by decide

theorem devTransactions_run {e m : Nat} (he : e ≤ 7) (hm : m ≤ 7) (s : State) :
    EncRun s [.read s.cfg.aDeviatn (radioValue s.cfg.aDeviatn s),
      .write s.cfg.aDeviatn ((radioValue s.cfg.aDeviatn s &&& 0x88) ||| BitVec.ofNat 8 (16 * e + m))]
      (devTransactions e m s) := by
  rw [← devField_eq e he m hm]
  exact (EncRun.strobe s).modify s.cfg.aDeviatn 0x77 _ rfl

/-- The exponent's and the mantissa's field of the bandwidth in `MDMCFG4` together (R244). -/
theorem bwField_eq : ∀ e ≤ 3, ∀ m ≤ 3,
    (BitVec.ofNat 8 e <<< 6) ||| (BitVec.ofNat 8 m <<< 4) = BitVec.ofNat 8 (64 * e + 16 * m) := by decide

theorem bwTransactions_run {e m : Nat} (he : e ≤ 3) (hm : m ≤ 3) (s : State) :
    EncRun s [.read s.cfg.aMdmcfg4 (radioValue s.cfg.aMdmcfg4 s),
      .write s.cfg.aMdmcfg4 ((radioValue s.cfg.aMdmcfg4 s &&& 0x0F) ||| BitVec.ofNat 8 (64 * e + 16 * m))]
      (bwTransactions e m s) := by
  rw [← bwField_eq e he m hm]
  exact (EncRun.strobe s).modify s.cfg.aMdmcfg4 0xF0 _ rfl

/-- What O31 asks of a command, from its run. -/
theorem EncRun.idleFirst {s t : State} {x : RadioTxn} {l : List RadioTxn} (h : EncRun s (x :: l) t) (w : BitVec 7)
    (ach : Frac) (f2 f3 : Nat) :
    ∃ u l', (.next (succeed w (t.setRes (encResult s.opnd.arg0 ach f2 f3))) : Result) = .next u ∧ u.err = 0 ∧
      u.res.r0 = s.opnd.arg0 ∧ u.radio.mode = .idle ∧ u.trace = s.trace ++ .strobe s.cfg.sIdle :: l' ∧ l' ≠ [] ∧
      ∀ x ∈ l', ∀ c, x ≠ .strobe c :=
  ⟨_, x :: l, rfl, rfl, rfl, h.mode, h.trace, List.cons_ne_nil _ _, h.access⟩

/-- Settles O31: each of the four is a run that reports. -/
theorem encCommandsStrobeIdleFirst : Obligations.EncCommandsStrobeIdleFirst := by
  intro i s hi
  simp only [encCommands, List.mem_cons, List.not_mem_nil, or_false] at hi
  obtain rfl | rfl | rfl | rfl := hi
  · obtain ⟨old, hrun, -⟩ := freqTransactions_run (freqFields s.cfg.fRef s.opnd.arg0.toNat).1
      (freqFields s.cfg.fRef s.opnd.arg0.toNat).2 s
    exact hrun.idleFirst ..
  · exact (drateTransactions_run _ _ s).idleFirst ..
  · obtain ⟨he, hm⟩ := devFields_le s.cfg.fRef s.opnd.arg0.toNat
    exact (devTransactions_run he hm s).idleFirst ..
  · obtain ⟨he, hm⟩ := bwFields_le s.cfg.fRef s.opnd.arg0.toNat
    exact (bwTransactions_run he hm s).idleFirst ..

/-! ENC_BW and ENC_DRATE on the register they share (R244). -/

/-- A write of the high half of a byte and then of the low half leaves both halves, whatever was there. -/
theorem lowHalf_after_highHalf {x high low : BitVec 8} (h : high &&& 0xF0 = high) :
    (((x &&& 0x0F) ||| high) &&& 0xF0) ||| low = high ||| low := by
  rw [BitVec.and_or_distrib_right, h, BitVec.and_assoc, show (0x0F &&& 0xF0 : BitVec 8) = 0#8 from rfl, BitVec.and_zero,
    BitVec.zero_or]

/-- The same in the other order. -/
theorem highHalf_after_lowHalf {x high low : BitVec 8} (h : low &&& 0x0F = low) :
    (((x &&& 0xF0) ||| low) &&& 0x0F) ||| high = high ||| low := by
  rw [BitVec.and_or_distrib_right, h, BitVec.and_assoc, show (0xF0 &&& 0x0F : BitVec 8) = 0#8 from rfl, BitVec.and_zero,
    BitVec.zero_or, BitVec.or_comm]

/-- The bandwidth's bits of `MDMCFG4`. -/
def bwBits (f b : Nat) : BitVec 8 := BitVec.ofNat 8 (64 * (bwFields f b).1 + 16 * (bwFields f b).2)

theorem bwBits_high (f b : Nat) : bwBits f b &&& 0xF0 = bwBits f b := by
  obtain ⟨he, hm⟩ := bwFields_le f b
  have hall : ∀ e ≤ 3, ∀ m ≤ 3, BitVec.ofNat 8 (64 * e + 16 * m) &&& 0xF0 = BitVec.ofNat 8 (64 * e + 16 * m) := by decide
  exact hall _ he _ hm

/-- The data rate's bits of `MDMCFG4`. -/
def drateBits (f r : Nat) : BitVec 8 := BitVec.ofNat 8 (drateFields f r).1

theorem drateBits_low (f r : Nat) : drateBits f r &&& 0x0F = drateBits f r := by
  have hall : ∀ e ≤ 15, BitVec.ofNat 8 e &&& 0x0F = BitVec.ofNat 8 e := by decide
  exact hall _ (drateFields_le f r).1

/-- What ENC_BW leaves in the radio (R244). -/
theorem exec_encBw_radio {s t : State} (h : exec .encBw s = .next t) :
    t.radio = ⟨memWrite s.radio.mem s.cfg.aMdmcfg4.toNat ((memRead s.radio.mem s.cfg.aMdmcfg4.toNat &&& 0x0F) |||
      bwBits s.cfg.fRef s.opnd.arg0.toNat), .idle⟩ := by
  cases h
  obtain ⟨he, hm⟩ := bwFields_le s.cfg.fRef s.opnd.arg0.toNat
  exact (bwTransactions_run he hm s).radio

theorem drateTransactions_radio (e m : Nat) (s : State) : (drateTransactions e m s).radio =
    ⟨memWrite (memWrite s.radio.mem s.cfg.aMdmcfg4.toNat
      ((memRead s.radio.mem s.cfg.aMdmcfg4.toNat &&& 0xF0) ||| BitVec.ofNat 8 e)) s.cfg.aMdmcfg3.toNat
      (BitVec.ofNat 8 m), .idle⟩ := (drateTransactions_run e m s).radio

/-- What ENC_DRATE leaves in the radio (R235). -/
theorem exec_encDrate_radio {s t : State} (h : exec .encDrate s = .next t) :
    t.radio = ⟨memWrite (memWrite s.radio.mem s.cfg.aMdmcfg4.toNat
        ((memRead s.radio.mem s.cfg.aMdmcfg4.toNat &&& 0xF0) ||| drateBits s.cfg.fRef s.opnd.arg0.toNat))
      s.cfg.aMdmcfg3.toNat (BitVec.ofNat 8 (drateFields s.cfg.fRef s.opnd.arg0.toNat).2), .idle⟩ := by
  cases h
  exact drateTransactions_radio ..

/-- Settles O36: in either order `MDMCFG4` ends with both commands' bits, and `MDMCFG3` with the data rate's mantissa. -/
theorem bandwidthAndDataRateCommute : Obligations.BandwidthAndDataRateCommute := by
  intro s t u v w rate hd hm ht hu hv hw
  have hne := mdmcfg4_ne_mdmcfg3 hd
  have hne' : s.cfg.aMdmcfg3.toNat ≠ s.cfg.aMdmcfg4.toNat := fun e => hne (BitVec.eq_of_toNat_eq e).symm
  have hwf := memWrite_wf s.cfg.aMdmcfg4
    (memRead s.radio.mem s.cfg.aMdmcfg4.toNat &&& 0xF0 ||| drateBits s.cfg.fRef rate.toNat) hm
  rw [exec_encDrate_radio hu, exec_encBw_radio hw]
  simp only [exec_cfg ht, exec_cfg hv, exec_encBw_radio ht, exec_encDrate_radio hv]
  rw [memRead_memWrite_same _ _ hm, lowHalf_after_highHalf (bwBits_high ..), memWrite_memWrite_same hm,
    memRead_memWrite_other hne', memRead_memWrite_same _ _ hm, highHalf_after_lowHalf (drateBits_low ..),
    memWrite_comm hwf hne.symm, memWrite_memWrite_same hm]

end Sys2Proof.Machine
end

section
/-! PROOFS. The ENC commands in full (44_codec_encode.md): the fields each one chooses, and its results, transactions and
frame, O27, O28, O29, O30. -/

namespace Sys2Proof.Machine

open Sys2Proof.Spec

/-! The chosen fields. -/

/-- The fields of R229, one by one. -/
theorem freqFields_eq (f t : Nat) : freqFields f t =
    (if freqQuarters f t < 256 then 0 else (freqQuarters f t - freqQuarters f t % 4) / 4 - 64,
      if freqQuarters f t < 256 then 0 else freqQuarters f t % 4) := by
  unfold freqFields
  dsimp only
  split
  · rfl
  · rfl

/-- The achieved frequency of R232 with `CHAN` = 1 and `CHANSPC_E` = 0, in quarter steps. -/
theorem freqValue_one (f freq m : Nat) : freqValue f freq 1 m 0 = ⟨f * (4 * freq + 256 + m), 2 ^ 18⟩ := by
  rw [freqValue, one_mul, pow_zero, mul_one, Nat.add_assoc]

/-- The fields of R233, its `n` being the mantissa rounded at the exponent before a carry. -/
theorem drateFields_eq {f r e0 n : Nat} (he : drateExp f r = e0)
    (hn : (2 * (r * 2 ^ 28) + f * 2 ^ e0) / (2 * (f * 2 ^ e0)) = n) : drateFields f r =
      if n < 256 then (e0, 0) else if 255 < n - 256 then (if e0 < 15 then (e0 + 1, 0) else (e0, 255))
        else (e0, n - 256) := by
  rw [drateFields, settleMantissa, roundDiv, he, hn]

/-- The fields of R237, likewise. -/
theorem devFields_eq {f d e0 n : Nat} (he : devExp f d = e0)
    (hn : (2 * (d * 2 ^ 17) + f * 2 ^ e0) / (2 * (f * 2 ^ e0)) = n) : devFields f d =
      if n < 8 then (e0, 0) else if 7 < n - 8 then (if e0 < 7 then (e0 + 1, 0) else (e0, 7)) else (e0, n - 8) := by
  rw [devFields, settleMantissa, roundDiv, he, hn]

/-- "The largest exponent with p, 0 if there is none" (R233, R237), in the rule's own words. -/
theorem largestExp_spec (p : Nat → Prop) [DecidablePred p] (n : Nat) :
    largestExp (fun e => decide (p e)) n ≤ n ∧
    (largestExp (fun e => decide (p e)) n = 0 ∨ p (largestExp (fun e => decide (p e)) n)) ∧
    ∀ e, largestExp (fun e => decide (p e)) n < e → e ≤ n → ¬ p e := by
  refine ⟨largestExp_le _ n, ?_, fun e hlt hle => of_decide_eq_false (largestExp_greatest _ hlt hle)⟩
  exact (largestExp_holds (fun e => decide (p e)) n).symm.imp_right of_decide_eq_true

theorem drateExp_spec (f r : Nat) : drateExp f r ≤ 15 ∧ (drateExp f r = 0 ∨ 256 * 2 ^ drateExp f r * f ≤ r * 2 ^ 28) ∧
    ∀ e, drateExp f r < e → e ≤ 15 → ¬ 256 * 2 ^ e * f ≤ r * 2 ^ 28 :=
  largestExp_spec (fun e => 256 * 2 ^ e * f ≤ r * 2 ^ 28) 15

theorem devExp_spec (f d : Nat) : devExp f d ≤ 7 ∧ (devExp f d = 0 ∨ 8 * 2 ^ devExp f d * f ≤ d * 2 ^ 17) ∧
    ∀ e, devExp f d < e → e ≤ 7 → ¬ 8 * 2 ^ e * f ≤ d * 2 ^ 17 :=
  largestExp_spec (fun e => 8 * 2 ^ e * f ≤ d * 2 ^ 17) 7

/-- The candidates stand by the divisor of their width, largest first: the narrowest filter first (R241, R242). -/
theorem bwCandidates_sorted : bwCandidates.Pairwise fun q q' => (4 + q'.2) * 2 ^ q'.1 < (4 + q.2) * 2 ^ q.1 := by decide

theorem mem_bwCandidates : ∀ e ≤ 3, ∀ m ≤ 3, (e, m) ∈ bwCandidates := by decide

/-- ENC_BW's choice is adequate and every narrower filter is not, or it is the widest and none is adequate (R241). -/
theorem bwFields_narrowest (f b : Nat) :
    (b * (8 * (4 + (bwFields f b).2) * 2 ^ (bwFields f b).1) ≤ f ∧
      ∀ e' m', e' ≤ 3 → m' ≤ 3 → (4 + (bwFields f b).2) * 2 ^ (bwFields f b).1 < (4 + m') * 2 ^ e' →
        f < b * (8 * (4 + m') * 2 ^ e')) ∨
    ((bwFields f b).1 = 0 ∧ (bwFields f b).2 = 0 ∧
      ∀ e' m', e' ≤ 3 → m' ≤ 3 → f < b * (8 * (4 + m') * 2 ^ e')) := by
  unfold bwFields
  cases hfind : bwCandidates.find? fun q => decide (b * 8 * (4 + q.2) * 2 ^ q.1 ≤ f) with
  | none =>
    refine .inr ⟨rfl, rfl, fun e' m' he hm => ?_⟩
    have hwide := List.find?_eq_none.1 hfind _ (mem_bwCandidates e' he m' hm)
    simpa [Nat.mul_assoc] using hwide
  | some q =>
    obtain ⟨hq, before, after, hlist, hbefore⟩ := List.find?_eq_some_iff_append.1 hfind
    refine .inl ⟨by simpa [Nat.mul_assoc] using hq, fun e' m' he hm hlt => ?_⟩
    have hmem := mem_bwCandidates e' he m' hm
    have hsorted := bwCandidates_sorted
    rw [hlist] at hmem hsorted
    obtain ⟨hafter, -⟩ := List.pairwise_cons.1 (List.pairwise_append.1 hsorted).2.1
    rcases List.mem_append.1 hmem with hin | hin
    · simpa [Nat.mul_assoc] using hbefore _ hin
    · rcases List.mem_cons.1 hin with rfl | hin
      · exact absurd hlt (Nat.lt_irrefl _)
      · exact absurd hlt (Nat.lt_asymm (hafter _ hin))

/-- ENC_DEV's warnings (R237): the ceilings are compared with the request. -/
theorem encDevWarn_flags (cfg : Config) (ach : Frac) (d : Nat) : FlagsAre (wQuant ach d ||| ceilingWarn cfg d)
    False False False (cfg.devCeilA < d) (cfg.devCeilB < d) False (ach.num ≠ d * ach.den) := by
  simpa only [or_false, false_or] using (wQuant_flags ach d).or (ceilingWarn_flags cfg d)

/-! What each command answers, its fields given. -/

section Answers

variable {s : State} {f2 f3 : Nat}

theorem exec_encFreq (h : freqFields s.cfg.fRef s.opnd.arg0.toNat = (f2, f3)) : exec .encFreq s =
    .next (succeed (wQuant ⟨s.cfg.fRef * (4 * f2 + 256 + f3), 2 ^ 18⟩ s.opnd.arg0.toNat)
      ((freqTransactions f2 f3 s).setRes
        (encResult s.opnd.arg0 ⟨s.cfg.fRef * (4 * f2 + 256 + f3), 2 ^ 18⟩ f2 f3))) := by
  show execEncFreq s = _
  simp only [execEncFreq, h, freqValue_one]

theorem exec_encDrate (h : drateFields s.cfg.fRef s.opnd.arg0.toNat = (f2, f3)) : exec .encDrate s =
    .next (succeed (wQuant (drateValue s.cfg.fRef f2 f3) s.opnd.arg0.toNat)
      ((drateTransactions f2 f3 s).setRes (encResult s.opnd.arg0 (drateValue s.cfg.fRef f2 f3) f2 f3))) := by
  show execEncDrate s = _
  simp only [execEncDrate, h]

theorem exec_encDev (h : devFields s.cfg.fRef s.opnd.arg0.toNat = (f2, f3)) : exec .encDev s =
    .next (succeed (wQuant (devValue s.cfg.fRef f2 f3) s.opnd.arg0.toNat ||| ceilingWarn s.cfg s.opnd.arg0.toNat)
      ((devTransactions f2 f3 s).setRes (encResult s.opnd.arg0 (devValue s.cfg.fRef f2 f3) f2 f3))) := by
  show execEncDev s = _
  simp only [execEncDev, h]

theorem exec_encBw (h : bwFields s.cfg.fRef s.opnd.arg0.toNat = (f2, f3)) : exec .encBw s =
    .next (succeed (wQuant (bwValue s.cfg.fRef f2 f3) s.opnd.arg0.toNat)
      ((bwTransactions f2 f3 s).setRes (encResult s.opnd.arg0 (bwValue s.cfg.fRef f2 f3) f2 f3))) := by
  show execEncBw s = _
  simp only [execEncBw, h]

end Answers

/-! The commands. -/

/-- Settles O27: R229's fields, and the run of R230 with six different addresses written. -/
theorem encFreqFieldsAndTransactions : Obligations.EncFreqFieldsAndTransactions := by
  rintro s _ _ n4 freq m _ _ hd hm rfl rfl rfl hfreq hm4 rfl rfl
  have hfields : freqFields s.cfg.fRef s.opnd.arg0.toNat = (freq, m) := by
    rw [freqFields_eq, hfreq, hm4]
    rfl
  obtain ⟨old, hrun, hold⟩ := freqTransactions_run freq m s
  rw [← hold hd]
  have hvalue {r w} {a v : BitVec 8} := hrun.reported_value hm r w (freqLog_nodup hd _ _ _) (a := a) (v := v)
  refine ⟨_, exec_encFreq hfields, hrun.reported_frame _ _, rfl, (wQuant_flags ..).eq_warnOf, rfl,
    hrun.reported_trace _ _, hrun.reported_mode _ _, hrun.reported_wf hm _ _, hvalue ?_, hvalue ?_, hvalue ?_,
    hvalue ?_, hvalue ?_, hvalue ?_, hrun.reported_othersKept _ _⟩
  all_goals simp [writesOf, freqLog]

/-- Settles O28: R233's fields, and the run of R235. -/
theorem encDrateFieldsAndTransactions : Obligations.EncDrateFieldsAndTransactions := by
  rintro s _ _ _ hd hm rfl rfl rfl
  obtain ⟨hle, hholds, hgreatest⟩ := drateExp_spec s.cfg.fRef s.opnd.arg0.toNat
  rcases hfields : drateFields s.cfg.fRef s.opnd.arg0.toNat with ⟨e, m⟩
  have hrun := drateTransactions_run e m s
  have hvalue {r w} {a v : BitVec 8} :=
    hrun.reported_value hm r w (List.pairwise_pair.2 (mdmcfg4_ne_mdmcfg3 hd)) (a := a) (v := v)
  exact ⟨_, _, e, m, _, hle, hholds, hgreatest, rfl, hfields.symm.trans (drateFields_eq rfl rfl),
    exec_encDrate hfields, hrun.reported_frame _ _, rfl, (wQuant_flags ..).eq_warnOf, rfl, hrun.reported_trace _ _,
    hrun.reported_mode _ _, hrun.reported_wf hm _ _, hvalue List.mem_cons_self,
    hvalue (List.mem_cons_of_mem _ List.mem_cons_self), hrun.reported_othersKept _ _⟩

/-- Settles O29: R237's fields and ceilings, and the run of R239. -/
theorem encDevFieldsAndTransactions : Obligations.EncDevFieldsAndTransactions := by
  rintro s _ _ _ hm rfl rfl rfl
  obtain ⟨hle, hholds, hgreatest⟩ := devExp_spec s.cfg.fRef s.opnd.arg0.toNat
  have hbounds := devFields_le s.cfg.fRef s.opnd.arg0.toNat
  rcases hfields : devFields s.cfg.fRef s.opnd.arg0.toNat with ⟨e, m⟩
  rw [hfields] at hbounds
  have hrun := devTransactions_run hbounds.1 hbounds.2 s
  exact ⟨_, _, e, m, _, hle, hholds, hgreatest, rfl, hfields.symm.trans (devFields_eq rfl rfl),
    exec_encDev hfields, hrun.reported_frame _ _, rfl, (encDevWarn_flags ..).eq_warnOf, rfl, hrun.reported_trace _ _,
    hrun.reported_mode _ _, hrun.reported_wf hm _ _,
    hrun.reported_value hm _ _ (List.nodup_singleton _) List.mem_cons_self, hrun.reported_othersKept _ _⟩

/-- Settles O30: R241's choice, and the run of R244. -/
theorem encBwNarrowestAdequateFilter : Obligations.EncBwNarrowestAdequateFilter := by
  rintro s _ _ _ hm rfl rfl rfl
  have hbounds := bwFields_le s.cfg.fRef s.opnd.arg0.toNat
  have hchoice := bwFields_narrowest s.cfg.fRef s.opnd.arg0.toNat
  rcases hfields : bwFields s.cfg.fRef s.opnd.arg0.toNat with ⟨e, m⟩
  rw [hfields] at hbounds hchoice
  have hrun := bwTransactions_run hbounds.1 hbounds.2 s
  exact ⟨e, m, _, hbounds.1, hbounds.2, hchoice, exec_encBw hfields, hrun.reported_frame _ _, rfl,
    (wQuant_flags ..).eq_warnOf, rfl, hrun.reported_trace _ _, hrun.reported_mode _ _, hrun.reported_wf hm _ _,
    hrun.reported_value hm _ _ (List.nodup_singleton _) List.mem_cons_self, hrun.reported_othersKept _ _⟩

end Sys2Proof.Machine
end

section
/-! PROOFS. How near an ENC command comes to its request (R246): the frequency, O34; the data rate and the deviation, which
share the mantissa step, O35. -/

namespace Sys2Proof.Machine

open Sys2Proof.Spec

/-! Rounding between two bounds (R14). -/

theorem le_roundDiv {a b k : Nat} (hb : 0 < b) (h : k * b ≤ a) : k ≤ roundDiv a b := by
  rw [roundDiv, Nat.le_div_iff_mul_le (by omega)]
  linarith

theorem roundDiv_le {a b k : Nat} (hb : 0 < b) (h : a ≤ k * b) : roundDiv a b ≤ k := by
  rw [roundDiv, Nat.div_le_iff_le_mul (by omega), Nat.mul_left_comm]
  omega

/-- The exact multiple of `b` that rounding chooses is within half of `b`. -/
theorem roundDiv_error (a : Nat) {b : Nat} (hb : 0 < b) :
    2 * (b * roundDiv a b) ≤ 2 * a + b ∧ 2 * a ≤ 2 * (b * roundDiv a b) + b := by
  obtain ⟨hlow, hhigh⟩ := roundDiv_bounds a hb
  rw [Nat.mul_assoc] at hlow hhigh
  omega

/-! The frequency. -/

/-- In the expressible range nothing saturates: `N4` is the rounded quotient, from 256 on (R229). -/
theorem freqQuarters_inRange {f t : Nat} (hf : 1 ≤ f) (hlow : 256 * f ≤ t * 2 ^ 18)
    (hhigh : t * 2 ^ 18 ≤ (4 * (2 ^ 24 + 63) + 3) * f) :
    freqQuarters f t = roundDiv (t * 2 ^ 18) f ∧ 256 ≤ freqQuarters f t := by
  have heq : freqQuarters f t = roundDiv (t * 2 ^ 18) f := Nat.min_eq_left (roundDiv_le hf hhigh)
  exact ⟨heq, heq ▸ le_roundDiv hf hlow⟩

/-- Settles O34: the achieved frequency is `N4` quarter steps, and `N4` is the rounded target. -/
theorem frequencyErrorWithinHalfQuarterStep : Obligations.FrequencyErrorWithinHalfQuarterStep := by
  rintro s u _ _ _ rfl rfl hf hlow hhigh h rfl
  obtain ⟨hfreq, hm⟩ := freqFields_lt s.cfg.fRef s.opnd.arg0.toNat
  obtain ⟨-, hr2, hr3⟩ := encReport h (hfreq.trans (by decide)) (hm.trans (by decide))
  obtain ⟨hquarters, h256⟩ := freqQuarters_inRange hf hlow hhigh
  rw [hr2, hr3, freqFields_quarters h256, hquarters]
  exact roundDiv_error _ hf

/-! The mantissa step. -/

/-- A rounded mantissa that does not saturate keeps its value, also when it carries into the exponent (R233, R237). -/
theorem settleMantissa_value {n top eMax e : Nat} (htop : 1 ≤ top) (hlow : top ≤ n) (hhigh : n ≤ 2 * top)
    (hcarry : n = 2 * top → e < eMax) :
    (top + (settleMantissa n top (top - 1) eMax e).2) * 2 ^ (settleMantissa n top (top - 1) eMax e).1 = n * 2 ^ e ∧
      e ≤ (settleMantissa n top (top - 1) eMax e).1 := by
  rw [settleMantissa, if_neg (by omega)]
  rcases Nat.eq_or_lt_of_le hhigh with heq | hlt
  · rw [if_pos (by omega), if_pos (hcarry heq), heq]
    exact ⟨by ring, Nat.le_succ e⟩
  · rw [if_neg (by omega)]
    exact ⟨by rw [Nat.add_sub_cancel' hlow], Nat.le_refl e⟩

/-- For a target `T` in the range of exponents up to `eMax` the settled fields are within half a mantissa step of it: the
largest exponent leaves a mantissa of one to two times `top`. -/
theorem mantissa_error {f T top eMax e : Nat} {q : Nat × Nat} (hf : 1 ≤ f) (htop : 1 ≤ top)
    (hlow : top * f ≤ T) (hhigh : T ≤ (2 * top - 1) * 2 ^ eMax * f) (he : e ≤ eMax)
    (hholds : e = 0 ∨ top * 2 ^ e * f ≤ T) (hgreatest : ∀ e', e < e' → e' ≤ eMax → ¬ top * 2 ^ e' * f ≤ T)
    (hq : settleMantissa (roundDiv T (f * 2 ^ e)) top (top - 1) eMax e = q) :
    2 * (f * (top + q.2) * 2 ^ q.1) ≤ 2 * T + f * 2 ^ q.1 ∧ 2 * T ≤ 2 * (f * (top + q.2) * 2 ^ q.1) + f * 2 ^ q.1 := by
  have hstep : 0 < f * 2 ^ e := Nat.mul_pos hf (Nat.two_pow_pos e)
  have hn_low : top ≤ roundDiv T (f * 2 ^ e) := by
    refine le_roundDiv hstep ?_
    rcases hholds with rfl | hholds
    · simpa using hlow
    · linarith
  obtain ⟨hn_high, hn_carry⟩ : roundDiv T (f * 2 ^ e) ≤ 2 * top ∧ (roundDiv T (f * 2 ^ e) = 2 * top → e < eMax) := by
    rcases Nat.eq_or_lt_of_le he with rfl | hlt
    · have hle : roundDiv T (f * 2 ^ e) ≤ 2 * top - 1 := roundDiv_le hstep (by linarith)
      omega
    · have habove := hgreatest (e + 1) (Nat.lt_succ_self e) hlt
      rw [pow_succ] at habove
      exact ⟨roundDiv_le hstep (by linarith), fun _ => hlt⟩
  obtain ⟨hvalue, hexp⟩ := settleMantissa_value htop hn_low hn_high hn_carry
  rw [hq] at hvalue hexp
  obtain ⟨hle, hge⟩ := roundDiv_error T hstep
  have hach : f * (top + q.2) * 2 ^ q.1 = f * 2 ^ e * roundDiv T (f * 2 ^ e) := by
    rw [Nat.mul_assoc, hvalue, Nat.mul_assoc, Nat.mul_comm (2 ^ e)]
  have hpow : f * 2 ^ e ≤ f * 2 ^ q.1 := Nat.mul_le_mul_left f (Nat.pow_le_pow_right (by decide) hexp)
  rw [hach]
  omega

/-- Settles O35: both conversions are the mantissa step, with 256 and with 8 as the leading bit. -/
theorem mantissaErrorWithinHalfStep : Obligations.MantissaErrorWithinHalfStep := by
  rintro s u _ _ a rfl rfl hf
  refine ⟨fun hlow hhigh h ha => ?_, fun hlow hhigh h ha => ?_⟩
  · obtain ⟨he, hm⟩ := drateFields_le s.cfg.fRef s.opnd.arg0.toNat
    obtain ⟨hle, hholds, hgreatest⟩ := drateExp_spec s.cfg.fRef s.opnd.arg0.toNat
    obtain ⟨-, hr2, hr3⟩ := encReport h (he.trans_lt (by decide)) (hm.trans_lt (by decide))
    rw [ha, hr2, hr3]
    exact mantissa_error hf (by decide) hlow hhigh hle hholds hgreatest rfl
  · obtain ⟨he, hm⟩ := devFields_le s.cfg.fRef s.opnd.arg0.toNat
    obtain ⟨hle, hholds, hgreatest⟩ := devExp_spec s.cfg.fRef s.opnd.arg0.toNat
    obtain ⟨-, hr2, hr3⟩ := encReport h (he.trans_lt (by decide)) (hm.trans_lt (by decide))
    rw [ha, hr2, hr3]
    exact mantissa_error hf (by decide) hlow hhigh hle hholds hgreatest rfl

end Sys2Proof.Machine
end

section
/-! PROOFS. The DEC commands (45_codec_decode.md): each one's result and frame, O32; that decoding the fields an ENC command
returned gives the achieved value it reported, O33. -/

namespace Sys2Proof.Machine

/-! The masked operands (R260). -/

theorem lowField_eq_mod (n : Nat) (v : BitVec 32) : lowField n v = v.toNat % 2 ^ n := BitVec.toNat_setWidth n v

/-- A field that fits its width comes back from a 32-bit register as it was put there. -/
theorem lowField_ofNat {n k : Nat} (hn : n ≤ 32) (hk : k < 2 ^ n) : lowField n (BitVec.ofNat 32 k) = k := by
  have hk32 : k < 2 ^ 32 := hk.trans_le (Nat.pow_le_pow_right (by decide) hn)
  rw [lowField_eq_mod, BitVec.toNat_ofNat, Nat.mod_eq_of_lt hk32, Nat.mod_eq_of_lt hk]

/-! What each command answers: its formula on the masked operands, decoded (R261 to R264). -/

theorem exec_decFreq (s : State) : exec .decFreq s = .next (decodeTo (freqValue s.cfg.fRef (lowField 24 s.opnd.arg0)
    (lowField 8 s.opnd.arg1) (lowField 8 s.opnd.arg2) (lowField 2 s.opnd.arg3)) s) := rfl

theorem exec_decDrate (s : State) : exec .decDrate s =
    .next (decodeTo (drateValue s.cfg.fRef (lowField 4 s.opnd.arg0) (lowField 8 s.opnd.arg1)) s) := rfl

theorem exec_decDev (s : State) : exec .decDev s =
    .next (decodeTo (devValue s.cfg.fRef (lowField 3 s.opnd.arg0) (lowField 3 s.opnd.arg1)) s) := rfl

theorem exec_decBw (s : State) : exec .decBw s =
    .next (decodeTo (bwValue s.cfg.fRef (lowField 2 s.opnd.arg0) (lowField 2 s.opnd.arg1)) s) := rfl

/-- Settles O32: each answer is a `decodeTo`, whose frame is R260's, and a mask to `n` bits is the remainder by `2 ^ n`. -/
theorem decCommandsResultAndFrame : Obligations.DecCommandsResultAndFrame := by
  rintro s _ _ _ _ _ rfl rfl rfl rfl rfl
  refine ⟨?freq, ?drate, ?dev, ?bw⟩
  case freq => rw [exec_decFreq, decodeTo_eq, freqValue]; simp only [lowField_eq_mod]; rfl
  case drate => rw [exec_decDrate, decodeTo_eq, drateValue]; simp only [lowField_eq_mod]; rfl
  case dev => rw [exec_decDev, decodeTo_eq, devValue]; simp only [lowField_eq_mod]; rfl
  case bw => rw [exec_decBw, decodeTo_eq, bwValue]; simp only [lowField_eq_mod]; rfl

/-! Decoding what was encoded (R266). -/

/-- When a command reports `value` of two fields that fit the widths they are decoded with, the same formula on the
registers it returned them in gives the achieved value it reported, saturated alike. -/
theorem decode_returned_fields {value : Nat → Nat → Frac} {s t u v : State} {w : BitVec 7} {target : BitVec 32}
    {f2 f3 n2 n3 : Nat} (henc : .next (succeed w (s.setRes (encResult target (value f2 f3) f2 f3))) = (.next t : Result))
    (hdec : .next (decodeTo (value (lowField n2 t.res.r2) (lowField n3 t.res.r3)) v) = (.next u : Result))
    (hn2 : n2 ≤ 32) (hn3 : n3 ≤ 32) (h2 : f2 < 2 ^ n2) (h3 : f3 < 2 ^ n3) : u.res.r0 = t.res.r1 := by
  cases henc
  cases hdec
  show sat32 (value (lowField n2 (BitVec.ofNat 32 f2)) (lowField n3 (BitVec.ofNat 32 f3))).floor =
    sat32 (value f2 f3).floor
  rw [lowField_ofNat hn2 h2, lowField_ofNat hn3 h3]

/-- Settles O33: each command's fields fit their widths, and its DEC command uses the same formula; for the frequency with
the channel number and exponent that ENC_FREQ writes (R230). -/
theorem decodingReturnedFieldsGivesAchieved : Obligations.DecodingReturnedFieldsGivesAchieved := by
  intro s t u v hf
  refine ⟨fun henc h0 h1 h2 h3 hdec => ?freq, fun henc h0 h1 hdec => ?drate, fun henc h0 h1 hdec => ?dev,
    fun henc h0 h1 hdec => ?bw⟩
  case freq =>
    obtain ⟨hfreq, hm⟩ := freqFields_lt s.cfg.fRef s.opnd.arg0.toNat
    rw [exec_decFreq, hf, h0, h1, h2, h3] at hdec
    exact decode_returned_fields (value := fun freq m => freqValue s.cfg.fRef freq 1 m 0) henc hdec (by decide)
      (by decide) hfreq (hm.trans (by decide))
  case drate =>
    obtain ⟨he, hm⟩ := drateFields_le s.cfg.fRef s.opnd.arg0.toNat
    rw [exec_decDrate, hf, h0, h1] at hdec
    exact decode_returned_fields (value := drateValue s.cfg.fRef) henc hdec (by decide) (by decide)
      (he.trans_lt (by decide)) (hm.trans_lt (by decide))
  case dev =>
    obtain ⟨he, hm⟩ := devFields_le s.cfg.fRef s.opnd.arg0.toNat
    rw [exec_decDev, hf, h0, h1] at hdec
    exact decode_returned_fields (value := devValue s.cfg.fRef) henc hdec (by decide) (by decide)
      (he.trans_lt (by decide)) (hm.trans_lt (by decide))
  case bw =>
    obtain ⟨he, hm⟩ := bwFields_le s.cfg.fRef s.opnd.arg0.toNat
    rw [exec_decBw, hf, h0, h1] at hdec
    exact decode_returned_fields (value := bwValue s.cfg.fRef) henc hdec (by decide) (by decide)
      (he.trans_lt (by decide)) (hm.trans_lt (by decide))

end Sys2Proof.Machine
end

section
/-! PROOFS. How a command and a step can end (60_exceptions.md): a hard error touches `ERR` and `WARN` only and has one
of two codes, O38; inside the sequencer's invariant nothing but an install can be refused, O55. -/

namespace Sys2Proof.Machine

open Sys2Proof.Spec

/-! Hard errors (R281 to R283). -/

/-- The codec's commands never fail (R245, R260). -/
theorem exec_codec_errOk {i : Instr} (hi : i.isWord = false) (htiming : i ∉ timingCommands) {s t : State}
    (h : exec i s = .next t) : t.err = errOk := by
  cases i with
  | plan | synth | rcfg => exact absurd (by decide) htiming
  | encFreq | encDrate | encDev | encBw | decFreq | decDrate | decDev | decBw => cases h; rfl
  | outNull | outY | outX | jmpNotX | setY | setPins1 | setPins0 | nop | jmpYDec | jmp => cases hi

/-- A timing command succeeds, or its parameter check failed, or SYNTH's program is too long (R121, R156). -/
theorem exec_timing_cases {i : Instr} (hi : i ∈ timingCommands) (s : State) :
    (∃ t, exec i s = .next t ∧ t.err = errOk) ∨ exec i s = .next (raiseHard errParam s) ∨
      (i = .synth ∧ exec i s = .next (raiseHard errCapacity s)) := by
  simp only [timingCommands, List.mem_cons, List.not_mem_nil, or_false] at hi
  by_cases hp : ParamsValid s
  · obtain rfl | rfl | rfl := hi
    · exact .inl ⟨_, execPlan_valid hp, rfl⟩
    · rcases Nat.lt_or_ge 32 (lengthOf s) with hn | hn
      · exact .inr (.inr ⟨rfl, execSynth_tooLong hp hn⟩)
      · exact .inl ⟨_, execSynth_commit hp hn, rfl⟩
    · exact .inl ⟨_, execRcfg_valid hp, rfl⟩
  · obtain rfl | rfl | rfl := hi
    · exact .inr (.inl (execPlan_invalid hp))
    · exact .inr (.inl (execSynth_invalid hp))
    · exact .inr (.inl (execRcfg_invalid hp))

/-- Settles O38: only a timing command can fail, and each of its failures is a `raiseHard` on the state it ran on. -/
theorem hardErrorsArePreciseAndListed : Obligations.HardErrorsArePreciseAndListed := by
  intro i s t hi h herr
  by_cases htiming : i ∈ timingCommands
  · obtain ⟨u, hu, hok⟩ | hparam | ⟨rfl, hcapacity⟩ := exec_timing_cases htiming s
    · cases hu.symm.trans h
      exact absurd hok herr
    · cases hparam.symm.trans h
      exact ⟨raiseHard_eq errParam s, .inr ⟨rfl, htiming⟩⟩
    · cases hcapacity.symm.trans h
      exact ⟨raiseHard_eq errCapacity s, .inl ⟨rfl, rfl⟩⟩
  · exact absurd (exec_codec_errOk hi htiming h) herr

/-! Progress (R280, R297). -/

/-- No instruction has a fault or a refusal: a command by its frame, a word by what it can change. -/
theorem exec_goesOn (i : Instr) (s : State) : ∃ t, exec i s = .next t := by
  cases hi : i.isWord with
  | false =>
    obtain ⟨t, ht, -⟩ := exec_command_keeps hi s
    exact ⟨t, ht⟩
  | true =>
    obtain ⟨q, hq⟩ := exec_word_setSeq hi s
    exact ⟨s.setSeq q, hq⟩

/-- What is to be done has a next state: every instruction does, a settled outcome when it is one. -/
def Issue.GoesOn : Issue → Prop
  | .run _ _ => True
  | .settle o => ∃ t, o = .next t

theorem step_goesOn {s : State} (h : (issue s).GoesOn) : ∃ t, step s = .next t := by
  cases hi : issue s with
  | run i u =>
    rw [step_run hi]
    exact exec_goesOn i u
  | settle o =>
    rw [hi] at h
    rw [step_settle hi]
    exact h

/-- A legal word decodes (R107). -/
theorem decode_of_wordLegal {two : Bool} {n : Nat} {w : Word16} (h : wordLegal two n w = true) :
    ∃ i, decodeSeq w = .ok i := by
  cases hd : decodeSeq w with
  | ok i => exact ⟨i, rfl⟩
  | error e => simp [wordLegal, hd] at h

/-- Inside its program the sequencer never stands at a word the contract refuses (R185). -/
theorem seqWord_decodes {q : Seq} (h : SeqInv q) : ∃ i, decodeSeq (seqWord q) = .ok i := by
  obtain ⟨hstore, hpc, -, -⟩ := h
  exact decode_of_wordLegal (hstore ⟨q.pc.toNat, q.pc.isLt⟩ hpc)

theorem cycleIssue_goesOn {s : State} (h : SeqInv s.seq) : (cycleIssue s).GoesOn := by
  cases hrun : s.seq.running with
  | false =>
    rw [cycleIssue_stopped hrun]
    exact ⟨s, rfl⟩
  | true =>
    by_cases hdly : s.seq.dly = 0
    · obtain ⟨i, hword⟩ := seqWord_decodes h
      rw [cycleIssue_word hrun hdly hword]
      trivial
    · rw [cycleIssue_wait hrun hdly]
      exact ⟨_, rfl⟩

/-- A reserved code is a hard error, which is a next state (R285). -/
theorem commandIssue_goesOn (c : BitVec 8) (s : State) : (commandIssue c s).GoesOn := by
  cases hd : decodeCmd c with
  | ok i =>
    rw [commandIssue_ok hd]
    trivial
  | error e =>
    rw [commandIssue_error hd]
    exact ⟨_, rfl⟩

theorem actionIssue_goesOn {a : Action} {s : State} (h : SeqInv s.seq)
    (ha : ∀ two o ws we, a ≠ .install two o ws we) : (actionIssue a s).GoesOn := by
  cases a with
  | write r v =>
    rw [actionIssue]
    split
    · exact commandIssue_goesOn _ s
    · exact ⟨_, rfl⟩
  | cycle => exact cycleIssue_goesOn h
  | install two o ws we => exact absurd rfl (ha two o ws we)
  | read | reset | push | start | stop | radioPreset | radioResume => exact ⟨_, rfl⟩

/-- Settles O55: the one refusal left is a word outside the contract at `pc`, and inside the invariant there is none. -/
theorem everyStepGoesOnInsideTheInvariant : Obligations.EveryStepGoesOnInsideTheInvariant := by
  intro s hinv hscript
  apply step_goesOn
  cases hs : s.script with
  | nil =>
    rw [issue_nil hs]
    exact cycleIssue_goesOn hinv
  | cons a rest =>
    rw [issue_cons hs]
    exact actionIssue_goesOn hinv fun two o ws we ha => hscript two o ws we rest (ha ▸ hs)

end Sys2Proof.Machine
end

section
/-! PROOFS. Reset and the hand-over of a program (70_reset_and_hazards.md): what a reset of the block clears and what it
does not touch, O1; what the install copies, O49, and what it refuses, O50. -/

namespace Sys2Proof.Machine

/-! Reset (R311, R313). -/

/-- A reset of the block leaves 0 in every register, the program buffer's words included. -/
theorem readReg_blockReset (s : State) (a : HostReg) : readReg (blockReset s) a = 0 := by
  cases a with
  | prog i =>
    have hword : (blockReset s).prog.words[i.val] = 0 := Vector.getElem_replicate _
    rw [readReg, hword]
    rfl
  | status => exact BitVec.eq_of_toNat_eq (statusWord_toNat (blockReset s))
  | progInfo => exact BitVec.eq_of_toNat_eq (progInfoWord_toNat (blockReset s).prog)
  | _ => rfl

theorem hostRead_blockReset (r : BitVec 6) (s : State) : hostRead r (blockReset s) = 0 :=
  readReg_blockReset s (hostReg r)

theorem step_reset {s : State} {rest : List Action} (hs : s.script = .reset :: rest) :
    step s = .next (blockReset (s.setScript rest)) := step_action hs rfl

/-- Settles O1: the reset state is one that a reset of the block leaves as it is. -/
theorem resetClearsTheRegisterFileOnly : Obligations.ResetClearsTheRegisterFileOnly := by
  have hfixed : blockReset State.reset = State.reset := rfl
  refine ⟨fun r => hfixed ▸ hostRead_blockReset r State.reset, fun s rest hs => ?_⟩
  exact ⟨_, step_reset hs, (hostRead_blockReset · _), rfl, rfl, rfl⟩

/-! The install (R315, R316, R320): its three conditions, in the order they are looked at. -/

section
variable {s : State} {two : Bool} {o ws we : BitVec 5}

theorem install_running (hrun : s.seq.running = true) : install two o ws we s = .refused .installWhileRunning :=
  if_pos hrun

theorem install_noProgram (hrun : s.seq.running = false) (hvalid : s.progValid = false) :
    install two o ws we s = .refused .installWithoutProgram := by
  simp [install, hrun, hvalid]

/-- With the sequencer stopped and a program committed, mode, origin and bounds decide. -/
theorem install_program (hrun : s.seq.running = false) (hvalid : s.progValid = true) :
    install two o ws we s =
      if two = s.progTwoAnt ∧ o = 0 ∧ ws = s.prog.wrapStart.setWidth 5 ∧ we = s.prog.wrapEnd.setWidth 5 then
        .next (s.setSeq (seqInstall s.prog two s.seq))
      else .refused .installOutsideContract := by
  simp [install, hrun, hvalid]

theorem step_install {rest : List Action} (hs : s.script = .install two o ws we :: rest) :
    step s = install two o ws we (s.setScript rest) := step_settle (issue_cons hs)

end

/-- Settles O49: inside the contract the install is `seqInstall`, whose store is `copyProgram`'s. -/
theorem installCopiesTheCommittedProgram : Obligations.InstallCopiesTheCommittedProgram := by
  intro s rest hrun hvalid hs
  have hstep : step s = .next ((s.setScript rest).setSeq (seqInstall s.prog s.progTwoAnt s.seq)) := by
    rw [step_install hs, install_program (s := s.setScript rest) hrun hvalid]
    exact if_pos ⟨rfl, rfl, rfl, rfl⟩
  exact ⟨_, hstep, copyProgram_getElem s.prog s.seq.imem, rfl⟩

/-- Settles O50, a ground of refusal at a time. -/
theorem installOutsideTheContractIsRefused : Obligations.InstallOutsideTheContractIsRefused := by
  intro s two o ws we rest hs
  rw [step_install hs]
  refine ⟨fun hrun => install_running hrun, fun hrun hvalid => install_noProgram hrun hvalid,
    fun hrun hvalid hother => ?_⟩
  rw [install_program (s := s.setScript rest) hrun hvalid, if_neg]
  rintro ⟨rfl, rfl, rfl, rfl⟩
  simp at hother

end Sys2Proof.Machine
end
